-- ==== Sys2Proof/Word.lean ====
section
/-! DEFINITION. The word types of the NX584 framer core: bytes, messages and listener identifiers. -/

namespace Sys2Proof

/-- A byte of the wire or of a message (00_scope R15). -/
abbrev Byte := BitVec 8

/-- A message: an ordered sequence of bytes, byte 0 the type byte (00_scope R16, R19). -/
abbrev Message := List Byte

/-- The listener identifiers of the build that is run. The spec leaves the type a parameter (00_scope R12): the state, the
instructions, every meaning and the step take any type with decidable equality (Machine/Generic.lean). This is the type they
have where none is given: DESIGN CHOICE, log 3. -/
abbrev LID := Nat

end Sys2Proof
end

