-- ==== Sys2Proof/Syntax.lean ====
section
/-! DEFINITION. Syntax: one constructor of `Instr` per row of spec/opcode_table.json, the packets that encode them, and
the choices of the environment that decide which agent steps next (00_scope R6, R18). -/

namespace Sys2Proof

/-- What a listener answers to a notification (30_encoding R81). A listener that gives no answer is a stall. -/
inductive ListenerAnswer
  | accept
  | fault
  deriving DecidableEq, Repr, Inhabited

/-- What the wire source offers the Receiver: a byte, CLOSED or RD_ERR (44_receiver R136). -/
inductive Symbol
  | byte (b : Byte)
  | closed
  | rdErr
  deriving DecidableEq, Repr, Inhabited

/-- What the wire sink answers to a byte (43_transmitter R127, R128). -/
inductive SinkAnswer
  | accept
  | error
  deriving DecidableEq, Repr, Inhabited

/-- The host commands that can be held in an insert step: ops 0x3, 0x4 and 0x7 (46_host_ops R175). -/
inductive InsertOp
  | send
  | sendTimed
  | setClock
  deriving DecidableEq, Repr, Inhabited

/-- The instructions: the rows of spec/opcode_table.json in the table's order. `h` is the host port. The type of listener
identifiers is a parameter (00_scope R12), `LID` where none is given (log 3). -/
inductive Instr (L : Type := LID)
  -- HOSTCMD, 30_encoding R76
  | reserved0 (h : Nat)
  | connect (h : Nat)
  | disconnect (h : Nat)
  | send (h : Nat) (msg : Message)
  | sendTimed (h : Nat) (msg : Message) (tMs : Nat)
  | subscribe (h : Nat) (lid : L)
  | unsubscribe (h : Nat) (lid : L)
  | setClock (h year month day hour minute dow : Nat)
  | querySize (h : Nat)
  | queryFull (h : Nat)
  | reservedA (h : Nat)
  | reservedB (h : Nat)
  | reservedC (h : Nat)
  | reservedD (h : Nat)
  | reservedE (h : Nat)
  | reservedF (h : Nat)
  -- QPORT, 30_encoding R80
  | append (h : Nat) (m : Message)
  | appendTimed (h : Nat) (m : Message) (tMs : Nat)
  | prepend (m : Message)
  | take
  | size (h : Nat)
  | isFull (h : Nat)
  -- WIRE, WIRE2, FRAME, 30_encoding R61, R73, R74
  | flag
  | escape
  | esc7E
  | esc7D
  | escIllegal (code : Byte)
  | frame (len : Byte) (data : List Byte) (cs1 cs2 : Byte)
  -- TYPE, 30_encoding R66
  | ackreq (rsvd : Bool) (type6 : BitVec 6)
  | typeBareAck (ackreq rsvd : Bool)
  | typeExempt (ackreq rsvd : Bool)
  -- LISTENER, 30_encoding R81
  | notify (lid : L) (ans : ListenerAnswer)
  -- TXSTEP, 43_transmitter
  | tReady
  | tTimeout
  | tCancel
  | tTake
  | tEmit
  | tWrerr
  | tEnd
  -- RXSTEP, 44_receiver and 45_dispatch
  | rHuntSkip
  | rHuntFlag
  | rLen
  | rDataPlain
  | rDataEsc
  | rEscOk
  | rEscBad
  | rCs1
  | rCs2
  | rAckInsert
  | rAckHold
  | rAckAbort
  | rAckNone
  | rGate
  | rDeliverOk
  | rDeliverFault
  | rClose
  -- HOSTSTEP, 46_host_ops R171, R175
  | disconnectComplete
  | insertRelease (h : Nat) (op : InsertOp)
  deriving DecidableEq, Repr, Inhabited

/-- The formats of the opcode table: the ports on which an encoded instruction is presented. -/
inductive Format
  | hostcmd
  | qport
  | wire
  | wire2
  | frame
  | type
  | listener
  | txstep
  | rxstep
  | hoststep
  deriving DecidableEq, Repr, Inhabited

/-- An encoded instruction: the format it is presented on, the host port, its code bytes (bit 0 of a one-byte code is the
table's bit 0), its message operand and its natural operands in the table's order (30_encoding R75: a command is a record
of an op and operands). Rows that share a format and a code carry the number of their condition as an operand (log 16). -/
structure Packet where
  fmt  : Format
  port : Nat
  code : List Byte
  msg  : Message
  nums : List Nat
  deriving DecidableEq, Repr, Inhabited

/-- One choice of the environment (00_scope R6, R18). `act` lets the agent named by the packet take that step, `split`
saying whether a host command keeps its issue step apart from its insert step (46_host_ops R173, log 11). The others are
the steps of the wall clock, the wire source and the wire sink. -/
inductive Choice
  | act (split : Bool) (p : Packet)
  | clock (ms : Nat)
  | wire (xs : List Symbol)
  | wireLost
  | sink (answers : List SinkAnswer)
  | sinkLost
  deriving DecidableEq, Repr, Inhabited

end Sys2Proof
end

