-- ==== Sys2Proof/Config.lean ====
section
/-! DEFINITION. Config: what is fixed when the block is built (10_state R42), and the free values that the spec leaves open. -/

namespace Sys2Proof

/-- P_GATE_CONSUME: the point at which the Transmitter clears the gate (00_scope R14, 42_gate R119). -/
inductive GateConsume
  | atWaitExit
  | atTake
  deriving DecidableEq, Repr, Inhabited

/-- The build parameters (00_scope R8, R9, R11, R13, R14). -/
structure Params where
  qcap          : Nat
  gateTimeoutMs : Nat
  lmax          : Nat
  hosts         : Nat
  gateConsume   : GateConsume
  deriving DecidableEq, Repr, Inhabited

/-- The configurations a block may be built with: P_QCAP, P_LMAX and P_HOSTS at least 1, any timeout (60_exceptions R194). -/
abbrev Params.legal (c : Params) : Prop := 1 ≤ c.qcap ∧ 1 ≤ c.lmax ∧ 1 ≤ c.hosts

/-- The build values of the reset state: the spec's defaults 100, 5000 and AT_WAIT_EXIT (00_scope R8, R9, R14); P_LMAX
and P_HOSTS are OPEN in the spec (R11, R13), and 8 and 3 are DESIGN CHOICE, log 4. -/
def Params.standard : Params :=
  { qcap := 100, gateTimeoutMs := 5000, lmax := 8, hosts := 3, gateConsume := .atWaitExit }

/-- Free value: the environment's `n`-th choice of which agent steps and with what input (00_scope R18, log 1). -/
opaque Config.environment : Nat → Choice

/-- Free value: whether a SET_CLOCK that has a bad field and is issued while not connected is refused for the field
rather than for the connection; the spec states no order (46_host_ops R174, R177, log 12). -/
opaque Config.badFieldFirst : Nat → Bool

end Sys2Proof
end

