-- ==== Sys2Proof/Machine/Codec.lean ====
section
/-! DEFINITION. The Frame Codec (40_codec): checksum, byte stuffing, frame assembly and disassembly, and the type byte
(30_encoding R66). Pure functions; no state (40_codec, introduction). -/

namespace Sys2Proof.Machine

/-- The start byte (30_encoding R61). -/
def flagByte : Byte := 0x7E

/-- The escape byte (30_encoding R73). -/
def escapeByte : Byte := 0x7D

/-- 40_codec R86. -/
def add255 (a b : Byte) : Byte := BitVec.ofNat 8 ((a.toNat + b.toNat) % 255)

/-- One iteration of the loop of 40_codec R87: `sum1` takes the byte, then `sum2` takes the new `sum1`. -/
def sumStep (p : Byte × Byte) (d : Byte) : Byte × Byte := (add255 p.1 d, add255 p.2 (add255 p.1 d))

/-- The seed of both sums: the low 8 bits of the length (40_codec R87). -/
def sumSeed (n : Nat) : Byte × Byte := (BitVec.ofNat 8 n, BitVec.ofNat 8 n)

/-- 40_codec R87: `(sum1, sum2)`. -/
def checksum (m : Message) : Byte × Byte := m.foldl sumStep (sumSeed m.length)

/-- 40_codec R90. -/
def cksMatch (m : Message) (c1 c2 : Byte) : Bool := decide ((c1, c2) = checksum m)

/-- 40_codec R91. -/
def stuff (b : Byte) : List Byte :=
  if b = 0x7E then [0x7D, 0x5E] else if b = 0x7D then [0x7D, 0x5D] else [b]

/-- 40_codec R92. -/
def stuffSeq : Message → List Byte
  | [] => []
  | b :: t => stuff b ++ stuffSeq t

/-- 40_codec R93: the value of the escape pair `7D x`, and whether the pair is legal. -/
def unstuff2 (x : Byte) : Byte × Bool :=
  if x = 0x5E then (0x7E, true) else if x = 0x5D then (0x7D, true) else (x ^^^ 0x20, false)

/-- 40_codec R94: the frame of a message. -/
def encodeFrame (m : Message) : List Byte :=
  flagByte :: BitVec.ofNat 8 m.length :: (stuffSeq m ++ [(checksum m).1, (checksum m).2])

/-- The low 6 bits of a byte as an unsigned byte: the type code of a type byte (30_encoding R66, `m[0] & 0x3F`). -/
def typeCode (b : Byte) : Byte := b &&& 0x3F

/-- Bit 7 of a type byte (30_encoding R66, R67). -/
def ackBit (b : Byte) : Bool := b.getLsbD 7

/-- A type byte from its three fields (30_encoding R66). -/
def typeByte (ackreq rsvd : Bool) (type6 : BitVec 6) : Byte :=
  BitVec.ofBool ackreq ++ BitVec.ofBool rsvd ++ type6

/-- The type code of the checksum-exempt frames (30_encoding R69). -/
def exemptType : BitVec 6 := 0x05

/-- The type code of a bare acknowledgment (30_encoding R69). -/
def bareAckType : BitVec 6 := 0x1D

/-- 40_codec R96. -/
def exempt (m : Message) : Bool :=
  match m with
  | [] => false
  | b :: _ => decide (typeCode b = 0x05)

/-- 43_transmitter R131. -/
def isBareAck (m : Message) : Bool :=
  match m with
  | [] => false
  | b :: _ => decide (typeCode b = 0x1D)

/-- The bare acknowledgment message (00_scope R19, 44_receiver R147). -/
def ackMessage : Message := [0x1D]

/-- 40_codec R97. -/
def valid (m : Message) (c1 c2 : Byte) (serr : Bool) : Bool := !serr && (cksMatch m c1 c2 || exempt m)

/-- The hunt of 40_codec R95: the bytes after the first `0x7E`, if there is one. -/
def huntFlag : List Byte → Option (List Byte)
  | [] => none
  | b :: t => if b = 0x7E then some t else huntFlag t

/-- The data loop of 40_codec R95: `n` logical bytes, whether an escape pair was malformed, and the rest of the wire. -/
def readData : Nat → List Byte → Option (Message × Bool × List Byte)
  | 0, w => some ([], false, w)
  | _ + 1, [] => none
  | n + 1, b :: t =>
    if b = 0x7D then
      match t with
      | [] => none
      | x :: u =>
        (readData n u).map fun r => ((unstuff2 x).1 :: r.1, !(unstuff2 x).2 || r.2.1, r.2.2)
    else
      (readData n t).map fun r => (b :: r.1, r.2.1, r.2.2)

/-- 40_codec R95: payload, validity flag and the rest of the wire; `none` is `incomplete`. -/
def decodeFrame (w : List Byte) : Option (Message × Bool × List Byte) :=
  match huntFlag w with
  | none => none
  | some [] => none
  | some (n :: t) =>
    match readData n.toNat t with
    | some (m, serr, c1 :: c2 :: rest) => some (m, valid m c1 c2 serr, rest)
    | _ => none

/-- The wire bytes that carry the next `n` logical bytes, split off as they stand (30_encoding R63, R84). -/
def splitData (n : Nat) (w : List Byte) : Option (List Byte × List Byte) :=
  (readData n w).map fun r => (w.take (w.length - r.2.2.length), r.2.2)

end Sys2Proof.Machine
end

