-- ==== Sys2Proof/WellFormed.lean ====
section
/-! DEFINITION. WellFormed: the operand checks of spec/opcode_table.json that the types of the operands do not make. A
message of a host command may have any length (30_encoding R75) and its fields any value: their ranges are checked by the
command's own rule (46_host_ops R174, R177). -/

namespace Sys2Proof

/-- The instructions the opcode table admits: a queued message has at most 255 bytes (41_queue R103, R108), PREPEND
carries `[0x1D]` only (R104), an illegal escape is no legal pair (30_encoding R74), and a FRAME's DATA field is exactly
LEN logical bytes (R61, R84). -/
def Instr.wf (i : Instr) : Bool :=
  match i with
  | .append _ m => decide (m.length ≤ 255)
  | .appendTimed _ m _ => decide (m.length ≤ 255)
  | .prepend m => decide (m = Machine.ackMessage)
  | .escIllegal code => decide (code ≠ 0x5E ∧ code ≠ 0x5D)
  | .frame len data _ _ => decide (Machine.splitData len.toNat data = some (data, []))
  | .reserved0 _ | .connect _ | .disconnect _ | .send _ _ | .sendTimed _ _ _ | .subscribe _ _ | .unsubscribe _ _
  | .setClock _ _ _ _ _ _ _ | .querySize _ | .queryFull _ | .reservedA _ | .reservedB _ | .reservedC _ | .reservedD _
  | .reservedE _ | .reservedF _ | .take | .size _ | .isFull _ | .flag | .escape | .esc7E | .esc7D | .ackreq _ _
  | .typeBareAck _ _ | .typeExempt _ _ | .notify _ _ | .tReady | .tTimeout | .tCancel | .tTake | .tEmit | .tWrerr | .tEnd
  | .rHuntSkip | .rHuntFlag | .rLen | .rDataPlain | .rDataEsc | .rEscOk | .rEscBad | .rCs1 | .rCs2 | .rAckInsert
  | .rAckHold | .rAckAbort | .rAckNone | .rGate | .rDeliverOk | .rDeliverFault | .rClose | .disconnectComplete
  | .insertRelease _ _ => true

/-- The well-formed instructions. -/
abbrev WellFormed (i : Instr) : Prop := i.wf = true

end Sys2Proof
end

