-- ==== Sys2Proof/Decode.lean ====
section
/-! DEFINITION. Decode: from packets to instructions, total, rejecting by name; then the encoder, and the words of
spec/opcode_table.json as packets. The codes are those of 30_encoding R73, R76, R80 and R83 and of the opcode table. -/

namespace Sys2Proof

/-- Why a packet is no instruction. -/
inductive Reject
  /-- the code word of a one-byte format is absent or too long -/
  | codeLength
  /-- the operands are not those of the row -/
  | operands
  /-- queue port codes 6 and 7, never issued (30_encoding R80) -/
  | queueCode (c : Nat)
  /-- state codes that no state has (30_encoding R83): tx.st 5 to 7, rx.st 10 to 15 -/
  | stateCode (c : Nat)
  /-- TX_OFF, TX_STOPPED, RX_OFF, RX_STOPPED have no step (43_transmitter R122, R130; 44_receiver R135, R154) -/
  | noStep
  /-- a wire code that is neither `7E` nor `7D` (30_encoding R73) -/
  | wireByte
  /-- a two-byte wire code that does not begin with the escape byte -/
  | escapePair
  /-- bytes that are not one whole frame (30_encoding R61) -/
  | frameShape
  /-- a type byte without the field the row tests (30_encoding R66) -/
  | typeField
  /-- a host step whose op is none of 0x2, 0x3, 0x4, 0x7 -/
  | hostStepOp
  deriving DecidableEq, Repr

/-- What the decoder answers. -/
inductive Decoded
  | ok (i : Instr)
  | reject (r : Reject)
  deriving DecidableEq, Repr

/-- The instruction, if there is one. -/
def Decoded.instr? : Decoded → Option Instr
  | .ok i => some i
  | .reject _ => none

/-- The field `hi..lo` of a byte, `lo = 0`, of width `n`: the low `n` bits (00_scope R15). -/
def lowField (n : Nat) (b : Byte) : Nat := b.toNat % 2 ^ n

/-- A row without operands. -/
def decodeBare (p : Packet) (i : Instr) : Decoded :=
  match p.msg, p.nums with
  | [], [] => .ok i
  | _, _ => .reject .operands

/-- The host commands: op in bits 3:0 of the command's first word (30_encoding R75, R76). -/
def decodeHost (p : Packet) (op : Nat) : Decoded :=
  match op with
  | 0x0 => decodeBare p (.reserved0 p.port)
  | 0x1 => decodeBare p (.connect p.port)
  | 0x2 => decodeBare p (.disconnect p.port)
  | 0x3 =>
    match p.nums with
    | [] => .ok (.send p.port p.msg)
    | _ => .reject .operands
  | 0x4 =>
    match p.nums with
    | [t] => .ok (.sendTimed p.port p.msg t)
    | _ => .reject .operands
  | 0x5 =>
    match p.msg, p.nums with
    | [], [lid] => .ok (.subscribe p.port lid)
    | _, _ => .reject .operands
  | 0x6 =>
    match p.msg, p.nums with
    | [], [lid] => .ok (.unsubscribe p.port lid)
    | _, _ => .reject .operands
  | 0x7 =>
    match p.msg, p.nums with
    | [], [year, month, day, hour, minute, dow] => .ok (.setClock p.port year month day hour minute dow)
    | _, _ => .reject .operands
  | 0x8 => decodeBare p (.querySize p.port)
  | 0x9 => decodeBare p (.queryFull p.port)
  | 0xA => decodeBare p (.reservedA p.port)
  | 0xB => decodeBare p (.reservedB p.port)
  | 0xC => decodeBare p (.reservedC p.port)
  | 0xD => decodeBare p (.reservedD p.port)
  | 0xE => decodeBare p (.reservedE p.port)
  | _ => decodeBare p (.reservedF p.port)

/-- An instruction whose message operand is checked against the row. -/
def decodeChecked (i : Instr) : Decoded := if i.wf then .ok i else .reject .operands

/-- The queue port: code in bits 2:0 (30_encoding R80). -/
def decodeQueue (p : Packet) (code : Nat) : Decoded :=
  match code with
  | 0 =>
    match p.nums with
    | [] => decodeChecked (.append p.port p.msg)
    | _ => .reject .operands
  | 1 =>
    match p.nums with
    | [t] => decodeChecked (.appendTimed p.port p.msg t)
    | _ => .reject .operands
  | 2 =>
    match p.nums with
    | [] => decodeChecked (.prepend p.msg)
    | _ => .reject .operands
  | 3 => decodeBare p .take
  | 4 => decodeBare p (.size p.port)
  | 5 => decodeBare p (.isFull p.port)
  | c => .reject (.queueCode c)

/-- The one-byte wire codes (30_encoding R61, R73). -/
def decodeWire (p : Packet) (b : Byte) : Decoded :=
  if b = 0x7E then decodeBare p .flag else if b = 0x7D then decodeBare p .escape else .reject .wireByte

/-- The escape pairs, escape byte first (30_encoding R73, R74; 20_memory R48). -/
def decodeWire2 (p : Packet) (b x : Byte) : Decoded :=
  if b ≠ 0x7D then .reject .escapePair
  else if x = 0x5E then decodeBare p .esc7E
  else if x = 0x5D then decodeBare p .esc7D
  else decodeBare p (.escIllegal x)

/-- A whole frame (30_encoding R61, R84): FLAG, LEN, DATA of LEN logical bytes, CS1, CS2. -/
def decodeFramePacket (p : Packet) (w : List Byte) : Decoded :=
  match w with
  | f :: len :: t =>
    if f ≠ 0x7E then .reject .frameShape
    else
      match Machine.splitData len.toNat t with
      | some (data, [c1, c2]) => decodeBare p (.frame len data c1 c2)
      | _ => .reject .frameShape
  | _ => .reject .frameShape

/-- A type byte and the number of the row that interprets it: 0 ACKREQ, 1 TYPE_BARE_ACK, 2 TYPE_EXEMPT (30_encoding R66). -/
def decodeType (p : Packet) (b : Byte) : Decoded :=
  match p.msg, p.nums with
  | [], [0] => if b.getLsbD 7 then .ok (.ackreq (b.getLsbD 6) (b.extractLsb' 0 6)) else .reject .typeField
  | [], [1] =>
    if b.extractLsb' 0 6 = Machine.bareAckType then .ok (.typeBareAck (b.getLsbD 7) (b.getLsbD 6)) else .reject .typeField
  | [], [2] =>
    if b.extractLsb' 0 6 = Machine.exemptType then .ok (.typeExempt (b.getLsbD 7) (b.getLsbD 6)) else .reject .typeField
  | _, _ => .reject .operands

/-- The listener port (30_encoding R81): the listener and its answer, 0 ACCEPT or 1 FAULT. -/
def decodeListener (p : Packet) : Decoded :=
  match p.msg, p.nums with
  | [], [lid, 0] => .ok (.notify lid .accept)
  | [], [lid, 1] => .ok (.notify lid .fault)
  | _, _ => .reject .operands

/-- The Transmitter's steps: the code of tx.st in bits 2:0 (30_encoding R83), then the number of the condition in the
opcode table's order. T_CANCEL stands under both wait states (43_transmitter R125). -/
def decodeTx (p : Packet) (code : Nat) : Decoded :=
  match code, p.msg, p.nums with
  | 1, [], [0] => .ok .tReady
  | 1, [], [1] => .ok .tTimeout
  | 1, [], [2] => .ok .tCancel
  | 2, [], [0] => .ok .tTake
  | 2, [], [1] => .ok .tCancel
  | 3, [], [0] => .ok .tEmit
  | 3, [], [1] => .ok .tWrerr
  | 3, [], [2] => .ok .tEnd
  | 0, _, _ => .reject .noStep
  | 4, _, _ => .reject .noStep
  | c, _, _ => if c ≤ 3 then .reject .operands else .reject (.stateCode c)

/-- The Receiver's steps: the code of rx.st in bits 3:0 (30_encoding R83), then the number of the condition in the opcode
table's order. R_CLOSE stands last under each reading state, codes 1 to 5 (44_receiver R153). -/
def decodeRx (p : Packet) (code : Nat) : Decoded :=
  match code, p.msg, p.nums with
  | 1, [], [0] => .ok .rHuntSkip
  | 1, [], [1] => .ok .rHuntFlag
  | 1, [], [2] => .ok .rClose
  | 2, [], [0] => .ok .rLen
  | 2, [], [1] => .ok .rClose
  | 3, [], [0] => .ok .rDataPlain
  | 3, [], [1] => .ok .rDataEsc
  | 3, [], [2] => .ok .rEscOk
  | 3, [], [3] => .ok .rEscBad
  | 3, [], [4] => .ok .rClose
  | 4, [], [0] => .ok .rCs1
  | 4, [], [1] => .ok .rClose
  | 5, [], [0] => .ok .rCs2
  | 5, [], [1] => .ok .rClose
  | 6, [], [0] => .ok .rAckInsert
  | 6, [], [1] => .ok .rAckHold
  | 6, [], [2] => .ok .rAckAbort
  | 6, [], [3] => .ok .rAckNone
  | 7, [], [0] => .ok .rGate
  | 8, [], [0] => .ok .rDeliverOk
  | 8, [], [1] => .ok .rDeliverFault
  | 0, _, _ => .reject .noStep
  | 9, _, _ => .reject .noStep
  | c, _, _ => if c ≤ 8 then .reject .operands else .reject (.stateCode c)

/-- The host ports' later steps: the op of the command in bits 3:0 (46_host_ops R171, R175). -/
def decodeHostStep (p : Packet) (op : Nat) : Decoded :=
  match op with
  | 0x2 => decodeBare p .disconnectComplete
  | 0x3 => decodeBare p (.insertRelease p.port .send)
  | 0x4 => decodeBare p (.insertRelease p.port .sendTimed)
  | 0x7 => decodeBare p (.insertRelease p.port .setClock)
  | _ => .reject .hostStepOp

/-- The decoder. -/
def decode (p : Packet) : Decoded :=
  match p.fmt, p.code with
  | .hostcmd, [b] => decodeHost p (lowField 4 b)
  | .qport, [b] => decodeQueue p (lowField 3 b)
  | .wire, [b] => decodeWire p b
  | .wire2, [b, x] => decodeWire2 p b x
  | .frame, w => decodeFramePacket p w
  | .type, [b] => decodeType p b
  | .listener, [] => decodeListener p
  | .txstep, [b] => decodeTx p (lowField 3 b)
  | .rxstep, [b] => decodeRx p (lowField 4 b)
  | .hoststep, [b] => decodeHostStep p (lowField 4 b)
  | _, _ => .reject .codeLength

/-- The op of a held insert command (30_encoding R76). -/
def InsertOp.code : InsertOp → BitVec 4
  | .send => 0x3
  | .sendTimed => 0x4
  | .setClock => 0x7

/-- The number of a listener's answer in a packet. -/
def ListenerAnswer.num : ListenerAnswer → Nat
  | .accept => 0
  | .fault => 1

/-- A host command's packet (30_encoding R75, R76). -/
def hostPacket (h : Nat) (op : Byte) (msg : Message) (nums : List Nat) : Packet :=
  { fmt := .hostcmd, port := h, code := [op], msg := msg, nums := nums }

/-- A queue operation's packet (30_encoding R80). -/
def queuePacket (h : Nat) (code : Byte) (msg : Message) (nums : List Nat) : Packet :=
  { fmt := .qport, port := h, code := [code], msg := msg, nums := nums }

/-- A packet without port or message: its format, code bytes and natural operands. -/
def plainPacket (f : Format) (code : List Byte) (nums : List Nat) : Packet :=
  { fmt := f, port := 0, code := code, msg := [], nums := nums }

/-- The encoder: the packet of an instruction, from the same tables. -/
def encode (i : Instr) : Packet :=
  match i with
  | .reserved0 h => hostPacket h 0x0 [] []
  | .connect h => hostPacket h 0x1 [] []
  | .disconnect h => hostPacket h 0x2 [] []
  | .send h msg => hostPacket h 0x3 msg []
  | .sendTimed h msg t => hostPacket h 0x4 msg [t]
  | .subscribe h lid => hostPacket h 0x5 [] [lid]
  | .unsubscribe h lid => hostPacket h 0x6 [] [lid]
  | .setClock h year month day hour minute dow => hostPacket h 0x7 [] [year, month, day, hour, minute, dow]
  | .querySize h => hostPacket h 0x8 [] []
  | .queryFull h => hostPacket h 0x9 [] []
  | .reservedA h => hostPacket h 0xA [] []
  | .reservedB h => hostPacket h 0xB [] []
  | .reservedC h => hostPacket h 0xC [] []
  | .reservedD h => hostPacket h 0xD [] []
  | .reservedE h => hostPacket h 0xE [] []
  | .reservedF h => hostPacket h 0xF [] []
  | .append h m => queuePacket h 0 m []
  | .appendTimed h m t => queuePacket h 1 m [t]
  | .prepend m => queuePacket 0 2 m []
  | .take => queuePacket 0 3 [] []
  | .size h => queuePacket h 4 [] []
  | .isFull h => queuePacket h 5 [] []
  | .flag => plainPacket .wire [0x7E] []
  | .escape => plainPacket .wire [0x7D] []
  | .esc7E => plainPacket .wire2 [0x7D, 0x5E] []
  | .esc7D => plainPacket .wire2 [0x7D, 0x5D] []
  | .escIllegal x => plainPacket .wire2 [0x7D, x] []
  | .frame len data c1 c2 => plainPacket .frame (0x7E :: len :: (data ++ [c1, c2])) []
  | .ackreq r t => plainPacket .type [Machine.typeByte true r t] [0]
  | .typeBareAck a r => plainPacket .type [Machine.typeByte a r Machine.bareAckType] [1]
  | .typeExempt a r => plainPacket .type [Machine.typeByte a r Machine.exemptType] [2]
  | .notify lid a => plainPacket .listener [] [lid, a.num]
  | .tReady => plainPacket .txstep [1] [0]
  | .tTimeout => plainPacket .txstep [1] [1]
  | .tCancel => plainPacket .txstep [1] [2]
  | .tTake => plainPacket .txstep [2] [0]
  | .tEmit => plainPacket .txstep [3] [0]
  | .tWrerr => plainPacket .txstep [3] [1]
  | .tEnd => plainPacket .txstep [3] [2]
  | .rHuntSkip => plainPacket .rxstep [1] [0]
  | .rHuntFlag => plainPacket .rxstep [1] [1]
  | .rLen => plainPacket .rxstep [2] [0]
  | .rDataPlain => plainPacket .rxstep [3] [0]
  | .rDataEsc => plainPacket .rxstep [3] [1]
  | .rEscOk => plainPacket .rxstep [3] [2]
  | .rEscBad => plainPacket .rxstep [3] [3]
  | .rCs1 => plainPacket .rxstep [4] [0]
  | .rCs2 => plainPacket .rxstep [5] [0]
  | .rAckInsert => plainPacket .rxstep [6] [0]
  | .rAckHold => plainPacket .rxstep [6] [1]
  | .rAckAbort => plainPacket .rxstep [6] [2]
  | .rAckNone => plainPacket .rxstep [6] [3]
  | .rGate => plainPacket .rxstep [7] [0]
  | .rDeliverOk => plainPacket .rxstep [8] [0]
  | .rDeliverFault => plainPacket .rxstep [8] [1]
  | .rClose => plainPacket .rxstep [1] [2]
  | .disconnectComplete => plainPacket .hoststep [0x2] []
  | .insertRelease h op => { fmt := .hoststep, port := h, code := [op.code.setWidth 8], msg := [], nums := [] }

/-- How many natural operands a host command has (30_encoding R76). -/
def hostArity (op : Nat) : Nat :=
  match op with
  | 0x4 => 1
  | 0x5 => 1
  | 0x6 => 1
  | 0x7 => 6
  | _ => 0

/-- The packet of a word of the opcode table, with operands of zeros. The table numbers each row inside its own format, so
one word can stand for rows of several formats. The port is chosen so (log 17): two bytes are an escape pair, the byte in
bits 15:8 first; of one byte, `7E` and `7D` are wire codes, a byte with bit 7 is ACKREQ, a byte of low bits `1D` is
TYPE_BARE_ACK, one of low bits `05` other than `05` is TYPE_EXEMPT, and every other byte is a host command. -/
def Packet.ofTableWord (nbits w : Nat) : Packet :=
  if nbits ≤ 8 then
    let b : Byte := BitVec.ofNat 8 w
    if b = 0x7E ∨ b = 0x7D then plainPacket .wire [b] []
    else if b.getLsbD 7 then plainPacket .type [b] [0]
    else if b.extractLsb' 0 6 = Machine.bareAckType then plainPacket .type [b] [1]
    else if b ≠ 0x05 ∧ b.extractLsb' 0 6 = Machine.exemptType then plainPacket .type [b] [2]
    else hostPacket 0 b [] (List.replicate (hostArity (lowField 4 b)) 0)
  else plainPacket .wire2 [BitVec.ofNat 8 (w / 256), BitVec.ofNat 8 w] []

/-- The instruction the decoder reads from a word of the opcode table (log 17). -/
def decodeTableWord (nbits w : Nat) : Option Instr := (decode (Packet.ofTableWord nbits w)).instr?

end Sys2Proof
end

