-- ==== Sys2Proof/Machine/State.lean ====
section
/-! DEFINITION. The state of the block and of its ports (10_state), as plain data, and the state after power-on reset
(70_reset_and_hazards R206). INVENTORY.md lists every field with its rule. -/

namespace Sys2Proof.Machine

/-- S.conn (10_state R21). -/
inductive Conn
  | disconnected
  | connected
  | closing
  deriving DecidableEq, Repr, Inhabited

/-- S.tx.st (10_state R26). -/
inductive TxSt
  | off
  | wait
  | take
  | send
  | stopped
  deriving DecidableEq, Repr, Inhabited

/-- S.rx.st (10_state R29). -/
inductive RxSt
  | off
  | hunt
  | len
  | data
  | cs1
  | cs2
  | ack
  | gate
  | dispatch
  | stopped
  deriving DecidableEq, Repr, Inhabited

/-- Refusal reasons of host responses (30_encoding R79). -/
inductive Reason
  | none
  | notConnected
  | alreadyConnected
  | msgTooLong
  | regFull
  | reservedOp
  | badField
  deriving DecidableEq, Repr, Inhabited

/-- Response statuses (30_encoding R78). -/
inductive Status
  | ok
  | refused
  | timeout
  deriving DecidableEq, Repr, Inhabited

/-- The value of a query's response (46_host_ops R180, R181). -/
inductive QueryValue
  | size (n : Nat)
  | full (b : Bool)
  deriving DecidableEq, Repr, Inhabited

/-- A host response (30_encoding R78). -/
structure Response where
  status : Status
  reason : Reason
  value  : Option QueryValue
  deriving DecidableEq, Repr, Inhabited

/-- The reason field of EV_RX_STOPPED (30_encoding R82). -/
inductive RxStopReason
  | closed
  | readError
  deriving DecidableEq, Repr, Inhabited

/-- The reason field of EV_TX_STOPPED (30_encoding R82). -/
inductive TxStopReason
  | cancelled
  | writeError
  deriving DecidableEq, Repr, Inhabited

/-- The event records (30_encoding R82), over the type of listener identifiers (00_scope R12). -/
inductive Event (L : Type)
  | cksumMismatch (len c1 c2 s1 s2 : Byte)
  | stuffError (len : Byte)
  | cksumExempt (len c1 c2 s1 s2 : Byte)
  | runt
  | rxPartial (rxst : BitVec 4)
  | rxStopped (reason : RxStopReason)
  | txStopped (reason : TxStopReason)
  | gateTimeout
  | listenerFault (lid : L) (type6 : Byte)
  | deliveryFailure (h : Nat) (op : BitVec 4)
  | cmdRefused (h : Nat) (op : BitVec 4) (reason : Reason)
  | ackDropped
  deriving DecidableEq, Repr, Inhabited

/-- The Transmitter's registers (10_state R26 to R28). -/
structure TxRegs where
  st       : TxSt
  deadline : Nat
  frame    : List Byte
  isAck    : Bool
  deriving DecidableEq, Repr, Inhabited

/-- The Receiver's registers (10_state R29 to R34), over the type of listener identifiers (00_scope R12). -/
structure RxRegs (L : Type) where
  st   : RxSt
  len  : Byte
  buf  : Message
  esc  : Bool
  serr : Bool
  s1   : Byte
  s2   : Byte
  c1   : Byte
  c2   : Byte
  ok   : Bool
  snap : List L
  idx  : Nat
  deriving DecidableEq, Repr, Inhabited

/-- The commands a host port can be found executing between two steps: the held inserts, each with the message it
inserts, and DISCONNECT (46_host_ops R184). -/
inductive HostCmd
  | send (msg : Message)
  | sendTimed (msg : Message) (tMs : Nat)
  | setClock (msg : Message)
  | disconnect
  deriving DecidableEq, Repr, Inhabited

/-- A host port's registers (10_state R39) and the responses it has given, oldest first (log 10). -/
structure HostPort where
  cmd      : Option HostCmd
  deadline : Nat
  resp     : List Response
  deriving DecidableEq, Repr, Inhabited

/-- A notification as offered on the listener port (30_encoding R81), over the type of listener identifiers (00_scope R12). -/
structure Notification (L : Type) where
  lid     : L
  type6   : Byte
  payload : Message
  deriving DecidableEq, Repr, Inhabited

/-- The state. First the configuration constants (10_state R42) and the record S of 10_state R20; then the ports and the
environment's agents (log 7 to 9); last the model's own fields (log 1, 11). The type of listener identifiers is a parameter
(00_scope R12), `LID` where none is given (log 3); Lean prints `s.conn LID` for the `s.conn` of such a state. -/
structure State (L : Type := LID) where
  cfg        : Params
  conn       : Conn
  streamOpen : Bool
  cancel     : Bool
  q          : List Message
  gate       : Bool
  tx         : TxRegs
  rx         : RxRegs L
  reg        : List L
  now        : Nat
  ev         : List (Event L)
  wireOut    : List Byte
  host       : List HostPort
  wireIn     : List Symbol
  sinkAns    : List SinkAnswer
  lisAns     : Option ListenerAnswer
  notes      : List (Notification L × ListenerAnswer)
  sched      : List Choice
  draws      : Nat
  split      : Bool
  deriving DecidableEq, Repr, Inhabited

/-- The reasons the machine stops. No rule of the spec stops the block (60_exceptions R186); these are codes the spec says
are never issued (93_implementation_defined U15, U16), so a step that meets one is a fault. Safe. -/
inductive Fault
  /-- raised by `step` on a packet with queue port code 6 or 7 (30_encoding R80, U16); safe -/
  | queuePortCode (code : Nat)
  /-- raised by `step` on a packet with an unused state code (30_encoding R83, U15); safe -/
  | stateCode (code : Nat)
  deriving DecidableEq, Repr

/-- The reasons a packet has no meaning. -/
inductive Refusal
  /-- raised by `exec` for an instruction that has no meaning yet; safe -/
  | notModelled (mnemonic : String)
  /-- raised by `step` on a packet that names no row of the opcode table; safe -/
  | undecodable (r : Reject)
  deriving DecidableEq, Repr

/-- What a step answers. -/
abbrev Result (L : Type := LID) := Host.Outcome (State L) Fault Refusal

/-- The Transmitter at power-on: TX_OFF; the other registers are unspecified (70_reset R206) and hold the values of log 5. -/
def TxRegs.powerOn : TxRegs := { st := .off, deadline := 0, frame := [], isAck := false }

/-- The Receiver at power-on: RX_OFF; the other registers are unspecified (70_reset R206) and hold the values of log 5. -/
def RxRegs.powerOn {L : Type} : RxRegs L :=
  { st := .off, len := 0, buf := [], esc := false, serr := false, s1 := 0, s2 := 0, c1 := 0, c2 := 0, ok := false,
    snap := [], idx := 0 }

/-- A host port at power-on (70_reset R206): no command; the deadline is unspecified (log 5). -/
def HostPort.powerOn : HostPort := { cmd := none, deadline := 0, resp := [] }

/-- The power-on state of a block built with configuration `c` while the wall clock reads `now` (70_reset R206). -/
def State.powerOn (c : Params) (now : Nat) (L : Type := LID) : State L :=
  { cfg := c, conn := .disconnected, streamOpen := false, cancel := false, q := [], gate := true
    tx := TxRegs.powerOn, rx := RxRegs.powerOn, reg := [], now := now, ev := [], wireOut := []
    host := List.replicate c.hosts HostPort.powerOn
    wireIn := [], sinkAns := [], lisAns := none, notes := [], sched := [], draws := 0, split := false }

/-- The state after reset: the standard build (log 4) with the wall clock at 0 (log 6). -/
def State.reset : State := State.powerOn Params.standard 0

end Sys2Proof.Machine
end

