-- ==== Sys2Proof/Machine/Flags.lean ====
section
/-! DEFINITION. The block's flags, codes and status outputs (10_state R41, R43; 30_encoding R78, R79, R82, R83), and the
conditions its steps test. -/

namespace Sys2Proof.Machine

variable {L : Type}

/-- 30_encoding R83. -/
def Conn.code : Conn → BitVec 2
  | .disconnected => 0
  | .connected => 1
  | .closing => 2

/-- 30_encoding R83. -/
def TxSt.code : TxSt → BitVec 3
  | .off => 0
  | .wait => 1
  | .take => 2
  | .send => 3
  | .stopped => 4

/-- 30_encoding R83. -/
def RxSt.code : RxSt → BitVec 4
  | .off => 0
  | .hunt => 1
  | .len => 2
  | .data => 3
  | .cs1 => 4
  | .cs2 => 5
  | .ack => 6
  | .gate => 7
  | .dispatch => 8
  | .stopped => 9

/-- 30_encoding R79. -/
def Reason.code : Reason → BitVec 4
  | .none => 0
  | .notConnected => 1
  | .alreadyConnected => 2
  | .msgTooLong => 3
  | .regFull => 4
  | .reservedOp => 5
  | .badField => 6

/-- 30_encoding R78. -/
def Status.code : Status → BitVec 2
  | .ok => 0
  | .refused => 1
  | .timeout => 2

/-- The reason field of EV_RX_STOPPED (30_encoding R82). -/
def RxStopReason.code : RxStopReason → Nat
  | .closed => 0
  | .readError => 1

/-- The reason field of EV_TX_STOPPED (30_encoding R82). -/
def TxStopReason.code : TxStopReason → Nat
  | .cancelled => 0
  | .writeError => 1

/-- The 8-bit event codes (30_encoding R82). -/
def Event.code : Event L → BitVec 8
  | .cksumMismatch _ _ _ _ _ => 0x01
  | .stuffError _ => 0x02
  | .cksumExempt _ _ _ _ _ => 0x03
  | .runt => 0x04
  | .rxPartial _ => 0x05
  | .rxStopped _ => 0x06
  | .txStopped _ => 0x07
  | .gateTimeout => 0x08
  | .listenerFault _ _ => 0x09
  | .deliveryFailure _ _ => 0x0A
  | .cmdRefused _ _ _ => 0x0B
  | .ackDropped => 0x0C

/-- STAT_CONN (10_state R41). -/
def State.statConn (s : State L) : BitVec 2 := s.conn.code

/-- STAT_QSIZE, also the result of SIZE (10_state R41, 41_queue R106). -/
def State.statQsize (s : State L) : Nat := s.q.length

/-- STAT_QFULL, also the result of ISFULL (10_state R41, 41_queue R107). -/
def State.statQfull (s : State L) : Bool := decide (s.q.length = s.cfg.qcap)

/-- STAT_GATE (10_state R41). -/
def State.statGate (s : State L) : Bool := s.gate

/-- STAT_TXST (10_state R41). -/
def State.statTxst (s : State L) : BitVec 3 := s.tx.st.code

/-- STAT_RXST (10_state R41). -/
def State.statRxst (s : State L) : BitVec 4 := s.rx.st.code

/-- The queue has a free slot (41_queue R103, R104). -/
def State.hasSpace (s : State L) : Bool := decide (s.q.length < s.cfg.qcap)

/-- The Receiver's acknowledgment request (44_receiver R147). A buffer without a byte 0 asks for none (log 20). -/
def RxRegs.ackreq (r : RxRegs L) : Bool :=
  match r.buf with
  | [] => false
  | b :: _ => decide (1 ≤ r.len.toNat) && ackBit b

/-- The comparison `match` of 44_receiver R146, the second checksum byte being `b`. -/
def RxRegs.sumsMatch (r : RxRegs L) (b : Byte) : Bool := decide (r.c1 = r.s1 ∧ b = r.s2)

/-- The validity flag of 44_receiver R146. -/
def RxRegs.validity (r : RxRegs L) (b : Byte) : Bool := !r.serr && (r.sumsMatch b || exempt r.buf)

/-- The states in which the Receiver reads the wire (44_receiver R136). -/
def RxSt.reading : RxSt → Bool
  | .hunt => true
  | .len => true
  | .data => true
  | .cs1 => true
  | .cs2 => true
  | .off => false
  | .ack => false
  | .gate => false
  | .dispatch => false
  | .stopped => false

/-- The states in which a frame has begun and is not yet read to its end (44_receiver R153). -/
def RxSt.midFrame : RxSt → Bool
  | .len => true
  | .data => true
  | .cs1 => true
  | .cs2 => true
  | .off => false
  | .hunt => false
  | .ack => false
  | .gate => false
  | .dispatch => false
  | .stopped => false

end Sys2Proof.Machine
end

