-- ==== Sys2Proof/Machine/Registry.lean ====
section
/-! DEFINITION. The Listener Registry and the dispatch over any type of listener identifiers with decidable equality
(00_scope R12; 45_dispatch). The type is the argument `L` (log 3). -/

namespace Sys2Proof.Machine

variable {L : Type}

/-- What SUBSCRIBE finds (45_dispatch R158): the id registered, the registry full, or the registry with the id added. -/
inductive Subscription (L : Type)
  | present
  | full
  | added (reg : List L)
  deriving DecidableEq, Repr

/-- SUBSCRIBE on the registry, of at most `lmax` ids (45_dispatch R158). -/
def subscribeTo [DecidableEq L] (lmax : Nat) (reg : List L) (lid : L) : Subscription L :=
  if lid ∈ reg then .present else if reg.length = lmax then .full else .added (reg ++ [lid])

/-- UNSUBSCRIBE on the registry (45_dispatch R159). -/
def unsubscribeFrom [DecidableEq L] (reg : List L) (lid : L) : List L := reg.filter fun x => decide (x ≠ lid)

/-- Dispatch start (45_dispatch R160): the registry is the snapshot. -/
def RxRegs.startDispatch (r : RxRegs L) (reg : List L) : RxRegs L :=
  { r with snap := reg, idx := 0, st := if reg.isEmpty then .hunt else .dispatch }

/-- `advance()` on the Receiver's registers (45_dispatch R163). -/
def RxRegs.advance (r : RxRegs L) : RxRegs L :=
  { r with idx := r.idx + 1, st := if r.idx + 1 = r.snap.length then .hunt else r.st }

/-- The notification on the listener port (30_encoding R81, 45_dispatch R161, R165): in RX_DISPATCH, the listener at `idx`
of the snapshot is offered the type code and the whole payload. -/
def RxRegs.offer (r : RxRegs L) : Option (Notification L) :=
  match r.st, r.snap[r.idx]?, r.buf with
  | .dispatch, some lid, b :: t => some { lid := lid, type6 := typeCode b, payload := b :: t }
  | _, _, _ => none

/-- The notification is for listener `lid` (30_encoding R81). -/
def Notification.isFor [DecidableEq L] (n : Notification L) (lid : L) : Bool := decide (n.lid = lid)

end Sys2Proof.Machine
end

