-- ==== Sys2Proof/Machine/Operands.lean ====
section
/-! DEFINITION. Where the steps get their operands: the wire source's symbol, the host port's command, the fields of a
SET_CLOCK, the notification offered to a listener. -/

namespace Sys2Proof.Machine

variable {L : Type}

/-- The symbol the wire source offers (44_receiver R136): while the stream is closed, CLOSED and nothing else; while it is
open, the next symbol, if there is one. -/
def State.recv (s : State L) : Option Symbol := if s.streamOpen then s.wireIn.head? else some .closed

/-- The byte offered, if the symbol offered is a byte. -/
def State.recvByte (s : State L) : Option Byte :=
  match s.recv with
  | some (.byte b) => some b
  | _ => none

/-- The command host port `h` is executing; `none` also where the port does not exist (10_state R39). -/
def State.hostCmd (s : State L) (h : Nat) : Option HostCmd :=
  match s.host[h]? with
  | some p => p.cmd
  | none => none

/-- The deadline of host port `h` (10_state R39). -/
def State.hostDeadline (s : State L) (h : Nat) : Nat :=
  match s.host[h]? with
  | some p => p.deadline
  | none => 0

/-- Host port `h` exists and may issue a command (46_host_ops R167). -/
def State.portIdle (s : State L) (h : Nat) : Bool :=
  match s.host[h]? with
  | some p => p.cmd.isNone
  | none => false

/-- The op of a held insert command; DISCONNECT is none (46_host_ops R175). -/
def HostCmd.insertOp? : HostCmd → Option InsertOp
  | .send _ => some .send
  | .sendTimed _ _ => some .sendTimed
  | .setClock _ => some .setClock
  | .disconnect => none

/-- The message APPEND inserts for a port executing SEND or SET_CLOCK (30_encoding R80). -/
def HostCmd.appendMsg? : HostCmd → Option Message
  | .send m => some m
  | .setClock m => some m
  | .sendTimed _ _ => none
  | .disconnect => none

/-- The ranges of the SET_CLOCK fields (46_host_ops R177). -/
def clockFieldsOk (year month day hour minute dow : Nat) : Bool :=
  decide ((2000 ≤ year ∧ year ≤ 2255) ∧ (1 ≤ month ∧ month ≤ 12) ∧ (1 ≤ day ∧ day ≤ 31) ∧ hour ≤ 23 ∧ minute ≤ 59 ∧
    (1 ≤ dow ∧ dow ≤ 7))

/-- The set-clock message (46_host_ops R178). -/
def clockMessage (year month day hour minute dow : Nat) : Message :=
  [0x3B, BitVec.ofNat 8 (year - 2000), BitVec.ofNat 8 month, BitVec.ofNat 8 day, BitVec.ofNat 8 hour,
    BitVec.ofNat 8 minute, BitVec.ofNat 8 dow]

/-- The notification on the listener port (30_encoding R81, 45_dispatch R161, R165). -/
def State.offer (s : State L) : Option (Notification L) := s.rx.offer

/-- Byte 0 of the frame in the Receiver's buffer is the type byte `b` (30_encoding R66). -/
def RxRegs.typeIs (r : RxRegs L) (b : Byte) : Bool := decide (r.buf.head? = some b)

/-- The next message the Transmitter takes has type byte `b` (43_transmitter R131). -/
def State.nextTypeIs (s : State L) (b : Byte) : Bool :=
  match s.q with
  | (c :: _) :: _ => decide (c = b)
  | _ => false

end Sys2Proof.Machine
end

