-- ==== Sys2Proof/Machine/Ops.lean ====
section
/-! DEFINITION. The named operations over the state: raising an event, responding, holding, the queue (41_queue), the gate
(42_gate), the registry and dispatch (45_dispatch), the Receiver's bytes (44_receiver), building a block. -/

namespace Sys2Proof.Machine

variable {L : Type}

/-- A step that is not enabled: the agent holds and no state changes (00_scope R7, R17; log 2). -/
def hold (s : State L) : Result L := .next s

/-- Raising events: the one exception mechanism of the block. The records are appended to S.ev in order, in the step that
causes them; nothing else is saved, masked or transferred (00_scope R17, 60_exceptions R187, R197). There is no return
(R198). -/
def State.raise (s : State L) (es : List (Event L)) : State L := { s with ev := s.ev ++ es }

/-- A change of one host port's registers (10_state R39). -/
def State.setHost (s : State L) (h : Nat) (f : HostPort → HostPort) : State L := { s with host := s.host.modify h f }

/-- The host port holds the command (46_host_ops R167). -/
def State.setCmd (s : State L) (h : Nat) (c : HostCmd) : State L := s.setHost h fun p => { p with cmd := some c }

/-- The time-out of a bounded wait (46_host_ops R176). -/
def State.setDeadline (s : State L) (h d : Nat) : State L := s.setHost h fun p => { p with deadline := d }

/-- A response ends the port's command (30_encoding R78, 46_host_ops R167). -/
def HostPort.respond (p : HostPort) (r : Response) : HostPort := { p with cmd := none, resp := p.resp ++ [r] }

/-- Host port `h` responds. -/
def State.respond (s : State L) (h : Nat) (r : Response) : State L := s.setHost h fun p => p.respond r

/-- The response OK without a value. -/
def okResponse : Response := { status := .ok, reason := .none, value := none }

/-- The response OK with a query's value. -/
def valueResponse (v : QueryValue) : Response := { status := .ok, reason := .none, value := some v }

/-- The response REFUSED with a reason. -/
def refusedResponse (r : Reason) : Response := { status := .refused, reason := r, value := none }

/-- The response TIMEOUT. -/
def timeoutResponse : Response := { status := .timeout, reason := .none, value := none }

/-- A command refused: the response and EV_CMD_REFUSED (30_encoding R79, R82). -/
def State.refuse (s : State L) (h : Nat) (op : BitVec 4) (r : Reason) : State L :=
  (s.respond h (refusedResponse r)).raise [.cmdRefused h op r]

/-- The issue step of a command: a port that exists and is idle may take it, any other holds (46_host_ops R167, log 21). -/
def issue (h : Nat) (s : State L) (k : State L → State L) : Result L := if s.portIdle h then .next (k s) else hold s

/-- A command with a reserved op code (46_host_ops R182). -/
def reservedCommand (h : Nat) (op : BitVec 4) (s : State L) : Result L := issue h s fun t => t.refuse h op .reservedOp

/-- The tail insert of APPEND (41_queue R103). -/
def State.enqueue (s : State L) (m : Message) : State L := { s with q := s.q ++ [m] }

/-- The head insert of PREPEND (41_queue R104). -/
def State.enqueueFront (s : State L) (m : Message) : State L := { s with q := m :: s.q }

/-- The insert step of a host port: append and respond OK (46_host_ops R173). -/
def State.insertAndRespond (s : State L) (h : Nat) (m : Message) : State L := (s.enqueue m).respond h okResponse

/-- After the checks of the issue step: insert at once where there is a free slot and the issue step is not kept apart from
it, else hold the command (46_host_ops R173, log 11). -/
def State.insertOrHold (s : State L) (h : Nat) (m : Message) (c : HostCmd) : State L :=
  if s.split = false ∧ s.hasSpace = true then s.insertAndRespond h m else s.setCmd h c

/-- The checks of the issue step of SEND, SEND_TIMED and SET_CLOCK, in order (46_host_ops R174); `k` goes on. -/
def State.sendChecks (s : State L) (h : Nat) (op : BitVec 4) (m : Message) (k : State L → State L) : State L :=
  if s.conn ≠ .connected then s.refuse h op .notConnected
  else if 255 < m.length then s.refuse h op .msgTooLong
  else k s

/-- The issue step of SEND with message `m` under op `op` (46_host_ops R173, R178). -/
def State.sendIssue (s : State L) (h : Nat) (op : BitVec 4) (m : Message) (c : HostCmd) : State L :=
  s.sendChecks h op m fun t => t.insertOrHold h m c

/-- The reason given for a SET_CLOCK with a bad field issued while not connected: a free value (log 12). -/
def State.clockReason (s : State L) : Reason := if Config.badFieldFirst s.draws then .badField else .notConnected

/-- The counter of free values advances. -/
def State.drawn (s : State L) : State L := { s with draws := s.draws + 1 }

/-- The host ports whose command is DISCONNECT respond OK (46_host_ops R171). -/
def HostPort.completeDisconnect (p : HostPort) : HostPort :=
  if p.cmd = some .disconnect then p.respond okResponse else p

/-- GATE_SET (42_gate R115, R116). -/
def State.gateSet (s : State L) : State L := { s with gate := true }

/-- The consume of the gate at the end of the wait (42_gate R117, R119). -/
def State.consumeAtWaitExit (s : State L) : State L :=
  { s with gate := if s.cfg.gateConsume = .atWaitExit then false else s.gate }

/-- The consume of the gate at the TAKE (42_gate R119). -/
def State.consumeAtTake (s : State L) : State L := { s with gate := if s.cfg.gateConsume = .atTake then false else s.gate }

/-- The Transmitter goes to a state. -/
def State.txGoto (s : State L) (st : TxSt) : State L := { s with tx := { s.tx with st := st } }

/-- The Receiver goes to a state. -/
def State.rxGoto (s : State L) (st : RxSt) : State L := { s with rx := { s.rx with st := st } }

/-- The Transmitter stops with its event (43_transmitter R125, R128). -/
def State.txStop (s : State L) (r : TxStopReason) : State L := (s.raise [.txStopped r]).txGoto .stopped

/-- The effect of T_TAKE on a queue whose head is `m` and tail `rest` (43_transmitter R126). -/
def State.takeMessage (s : State L) (m : Message) (rest : List Message) : State L :=
  { s.consumeAtTake with
    q := rest
    tx := { s.tx with st := .send, frame := encodeFrame m, isAck := isBareAck m } }

/-- The step T_TAKE, with the TAKE that is part of it (43_transmitter R126, 41_queue R105). -/
def takeStep (s : State L) : Result L :=
  match s.tx.st, s.cancel, s.q with
  | .take, false, m :: rest => .next (s.takeMessage m rest)
  | _, _, _ => hold s

/-- The symbol offered is consumed; CLOSED offered by a closed stream leaves the source's symbols as they are (44_receiver
R136, log 7). -/
def State.consumeSymbol (s : State L) : State L := if s.streamOpen then { s with wireIn := s.wireIn.tail } else s

/-- `accept(v)`: one logical payload byte (44_receiver R144). -/
def RxRegs.accept (r : RxRegs L) (v : Byte) : RxRegs L :=
  { r with
    buf := r.buf ++ [v]
    s1 := add255 r.s1 v
    s2 := add255 r.s2 (add255 r.s1 v)
    st := if r.buf.length + 1 = r.len.toNat then .cs1 else .data }

/-- The registers after the length byte (44_receiver R139). -/
def RxRegs.startFrame (r : RxRegs L) (b : Byte) : RxRegs L :=
  { r with
    len := b, buf := [], esc := false, serr := false, s1 := b, s2 := b
    st := if b = 0 then .cs1 else .data }

/-- The events of a completely read frame (44_receiver R146, 60_exceptions R196). -/
def RxRegs.frameEvents (r : RxRegs L) (b : Byte) : List (Event L) :=
  (if r.serr then [.stuffError r.len]
    else if r.sumsMatch b then []
    else if exempt r.buf then [.cksumExempt r.len r.c1 b r.s1 r.s2]
    else [.cksumMismatch r.len r.c1 b r.s1 r.s2]) ++
  (if r.len = 0 then [.runt] else [])

/-- The effect of R_CS2 on the byte `b` (44_receiver R146). -/
def State.finishFrame (s : State L) (b : Byte) : State L :=
  { s.consumeSymbol.raise (s.rx.frameEvents b) with
    rx := { s.rx with c2 := b, ok := s.rx.validity b, st := .ack } }

/-- The insert of the bare acknowledgment (44_receiver R147). -/
def State.insertAck (s : State L) : State L := (s.enqueueFront ackMessage).rxGoto .gate

/-- The Receiver aborts a held acknowledgment (44_receiver R149). -/
def State.abortAck (s : State L) : State L := (s.raise [.ackDropped, .rxStopped .closed]).rxGoto .stopped

/-- The step R_ACK_INSERT, with the PREPEND that is part of it (44_receiver R147, 41_queue R104). -/
def ackInsertStep (s : State L) : Result L :=
  if s.rx.st = .ack ∧ s.rx.ackreq = true ∧ s.hasSpace = true then .next s.insertAck else hold s

/-- The step R_ACK_ABORT (44_receiver R149). -/
def ackAbortStep (s : State L) : Result L :=
  if s.rx.st = .ack ∧ s.rx.ackreq = true ∧ s.statQfull = true ∧ s.cancel = true then .next s.abortAck else hold s

/-- The step R_CS2 (44_receiver R146). -/
def cs2Step (s : State L) : Result L :=
  match s.rx.st, s.recvByte with
  | .cs2, some b => .next (s.finishFrame b)
  | _, _ => hold s

/-- Dispatch start (45_dispatch R160). -/
def State.startDispatch (s : State L) : State L := { s with rx := s.rx.startDispatch s.reg }

/-- `advance()`: the end of one delivery (45_dispatch R163); the listener's answer is used up. -/
def State.advance (s : State L) : State L := { s with rx := s.rx.advance, lisAns := none }

/-- SIZE through a host port (41_queue R106, 46_host_ops R180). -/
def sizeQuery (h : Nat) (s : State L) : Result L :=
  issue h s fun t => t.respond h (valueResponse (.size t.statQsize))

/-- ISFULL through a host port (41_queue R107, 46_host_ops R181). -/
def fullQuery (h : Nat) (s : State L) : Result L :=
  issue h s fun t => t.respond h (valueResponse (.full t.statQfull))

/-- The wire source makes symbols available next, in order. It does so while the stream is open: while it is closed CLOSED is
the only symbol offered and the source has no step (30_encoding R85, 44_receiver R136, 70_reset R206). -/
def State.offerSymbols (s : State L) (xs : List Symbol) : State L :=
  if s.streamOpen then { s with wireIn := s.wireIn ++ xs } else s

/-- The wire source makes bytes available next, in order. -/
def State.supply (s : State L) (bs : List Byte) : State L := s.offerSymbols (bs.map .byte)

/-- Building a block: an illegal configuration is refused (60_exceptions R194). -/
def State.build (c : Params) (now : Nat) (L : Type := LID) : Option (State L) :=
  if c.legal then some (State.powerOn c now L) else none

end Sys2Proof.Machine
end

