-- ==== Sys2Proof/Machine/Host.lean ====
section
/-! DEFINITION. The host commands and the host ports' later steps (46_host_ops; 45_dispatch R158, R159). -/

namespace Sys2Proof.Machine

variable {L : Type}

/-- RESERVED_0 (R182). -/
def execReserved0 (h : Nat) (s : State L) : Result L := reservedCommand h 0x0 s

/-- CONNECT's effect from DISCONNECTED (R168). -/
def State.connect (s : State L) : State L :=
  { s with
    conn := .connected, streamOpen := true, cancel := false
    q := [], gate := true, reg := []
    tx := { s.tx with st := .wait, deadline := s.now + s.cfg.gateTimeoutMs }
    rx := { s.rx with st := .hunt } }

/-- CONNECT (R168, R169). -/
def execConnect (h : Nat) (s : State L) : Result L :=
  issue h s fun t =>
    if t.conn = .disconnected then t.connect.respond h okResponse else t.refuse h 0x1 .alreadyConnected

/-- DISCONNECT's effect from CONNECTED; the stream is closed here only (R170). -/
def State.startClosing (s : State L) : State L := { s with conn := .closing, cancel := true, streamOpen := false }

/-- DISCONNECT (R170, R172): initiation, answered at once, or held until the completion step. -/
def execDisconnect (h : Nat) (s : State L) : Result L :=
  issue h s fun t =>
    match t.conn with
    | .connected => t.startClosing.setCmd h .disconnect
    | .disconnected => t.respond h okResponse
    | .closing => t.setCmd h .disconnect

/-- SEND (R173, R174). -/
def execSend (h : Nat) (msg : Message) (s : State L) : Result L :=
  issue h s fun t => t.sendIssue h 0x3 msg (.send msg)

/-- SEND_TIMED (R176): the checks, the deadline, then the insert or the hold. -/
def execSendTimed (h : Nat) (msg : Message) (tMs : Nat) (s : State L) : Result L :=
  issue h s fun t =>
    t.sendChecks h 0x4 msg fun u => (u.setDeadline h (u.now + tMs)).insertOrHold h msg (.sendTimed msg tMs)

/-- SUBSCRIBE (45_dispatch R158). -/
def execSubscribe [DecidableEq L] (h : Nat) (lid : L) (s : State L) : Result L :=
  issue h s fun t =>
    if t.conn ≠ .connected then t.refuse h 0x5 .notConnected
    else
      match subscribeTo t.cfg.lmax t.reg lid with
      | .present => t.respond h okResponse
      | .full => t.refuse h 0x5 .regFull
      | .added reg => State.respond { t with reg := reg } h okResponse

/-- UNSUBSCRIBE (45_dispatch R159). -/
def execUnsubscribe [DecidableEq L] (h : Nat) (lid : L) (s : State L) : Result L :=
  issue h s fun t => State.respond { t with reg := unsubscribeFrom t.reg lid } h okResponse

/-- SET_CLOCK (R177, R178): the field check, then as SEND. Where the field check fails while not connected, both refusals
apply and the spec states no order: the reason is a free value (log 12). -/
def execSetClock (h year month day hour minute dow : Nat) (s : State L) : Result L :=
  issue h s fun t =>
    if clockFieldsOk year month day hour minute dow then
      t.sendIssue h 0x7 (clockMessage year month day hour minute dow)
        (.setClock (clockMessage year month day hour minute dow))
    else if t.conn = .connected then t.refuse h 0x7 .badField
    else t.drawn.refuse h 0x7 t.clockReason

/-- QUERY_SIZE (R180). -/
def execQuerySize (h : Nat) (s : State L) : Result L := sizeQuery h s

/-- QUERY_FULL (R181). -/
def execQueryFull (h : Nat) (s : State L) : Result L := fullQuery h s

/-- RESERVED_A (R182). -/
def execReservedA (h : Nat) (s : State L) : Result L := reservedCommand h 0xA s

/-- RESERVED_B (R182). -/
def execReservedB (h : Nat) (s : State L) : Result L := reservedCommand h 0xB s

/-- RESERVED_C (R182). -/
def execReservedC (h : Nat) (s : State L) : Result L := reservedCommand h 0xC s

/-- RESERVED_D (R182). -/
def execReservedD (h : Nat) (s : State L) : Result L := reservedCommand h 0xD s

/-- RESERVED_E (R182). -/
def execReservedE (h : Nat) (s : State L) : Result L := reservedCommand h 0xE s

/-- RESERVED_F (R182). -/
def execReservedF (h : Nat) (s : State L) : Result L := reservedCommand h 0xF s

/-- The teardown of a connection (R171). -/
def State.completeDisconnect (s : State L) : State L :=
  { s with
    q := [], reg := [], conn := .disconnected
    tx := { s.tx with st := .off }
    rx := { s.rx with st := .off }
    host := s.host.map HostPort.completeDisconnect }

/-- DISCONNECT_COMPLETE (R171). -/
def execDisconnectComplete (s : State L) : Result L :=
  if s.conn = .closing ∧ s.tx.st = .stopped ∧ s.rx.st = .stopped then .next s.completeDisconnect else hold s

/-- INSERT_RELEASE (R175). A SEND_TIMED that may still insert does so first (60_exceptions R196); the insert needs
CONNECTED, the release its absence. -/
def execInsertRelease (h : Nat) (op : InsertOp) (s : State L) : Result L :=
  match s.hostCmd h with
  | some c =>
    if c.insertOp? = some op ∧ s.conn ≠ .connected then
      .next ((s.respond h (refusedResponse .notConnected)).raise [.deliveryFailure h op.code])
    else hold s
  | none => hold s

end Sys2Proof.Machine
end

