-- ==== Sys2Proof/Machine/Queue.lean ====
section
/-! DEFINITION. The queue port (41_queue, 30_encoding R80). Each row is the atomic step in which its issuing agent performs
the operation (20_memory R53, log 13): a host port's held insert, the Receiver's PREPEND, the Transmitter's TAKE, a host
port's query. -/

namespace Sys2Proof.Machine

variable {L : Type}

/-- APPEND (41_queue R103): the insert step of a port executing SEND or SET_CLOCK (46_host_ops R173, R178). -/
def execAppend (h : Nat) (m : Message) (s : State L) : Result L :=
  match s.hostCmd h with
  | some c =>
    if c.appendMsg? = some m ∧ s.conn = .connected ∧ s.hasSpace = true then .next (s.insertAndRespond h m) else hold s
  | none => hold s

/-- APPEND_TIMED (41_queue R108): the insert step of a port executing SEND_TIMED, or its timeout step. The insert goes
first, then the release of R175 (INSERT_RELEASE), then the timeout (60_exceptions R196). -/
def execAppendTimed (h : Nat) (m : Message) (tMs : Nat) (s : State L) : Result L :=
  if s.hostCmd h = some (.sendTimed m tMs) ∧ s.conn = .connected then
    if s.hasSpace then .next (s.insertAndRespond h m)
    else if s.statQfull = true ∧ s.hostDeadline h ≤ s.now then
      .next ((s.respond h timeoutResponse).raise [.deliveryFailure h 0x4])
    else hold s
  else hold s

/-- PREPEND (41_queue R104): issued by the Receiver in RX_ACK with the bare acknowledgment (44_receiver R147). -/
def execPrepend (m : Message) (s : State L) : Result L := if m = ackMessage then ackInsertStep s else hold s

/-- TAKE (41_queue R105): issued by the Transmitter in TX_TAKE (43_transmitter R126). -/
def execTake (s : State L) : Result L := takeStep s

/-- SIZE (41_queue R106), reached through QUERY_SIZE. -/
def execSize (h : Nat) (s : State L) : Result L := sizeQuery h s

/-- ISFULL (41_queue R107), reached through QUERY_FULL. -/
def execIsFull (h : Nat) (s : State L) : Result L := fullQuery h s

end Sys2Proof.Machine
end

