-- ==== Sys2Proof/Machine/Receiver.lean ====
section
/-! DEFINITION. The Receiver's steps (44_receiver) and its dispatch (45_dispatch R160 to R163). A reading step is enabled
when the wire source offers its symbol, which the step consumes (R136). -/

namespace Sys2Proof.Machine

variable {L : Type}

/-- R_HUNT_SKIP (R137). -/
def execRHuntSkip (s : State L) : Result L :=
  match s.rx.st, s.recvByte with
  | .hunt, some b => if b = 0x7E then hold s else .next s.consumeSymbol
  | _, _ => hold s

/-- R_HUNT_FLAG (R138). -/
def execRHuntFlag (s : State L) : Result L :=
  match s.rx.st, s.recvByte with
  | .hunt, some b => if b = 0x7E then .next (s.consumeSymbol.rxGoto .len) else hold s
  | _, _ => hold s

/-- R_LEN (R139). -/
def execRLen (s : State L) : Result L :=
  match s.rx.st, s.recvByte with
  | .len, some b => .next { s.consumeSymbol with rx := s.rx.startFrame b }
  | _, _ => hold s

/-- R_DATA_PLAIN (R140). -/
def execRDataPlain (s : State L) : Result L :=
  match s.rx.st, s.rx.esc, s.recvByte with
  | .data, false, some b => if b = 0x7D then hold s else .next { s.consumeSymbol with rx := s.rx.accept b }
  | _, _, _ => hold s

/-- R_DATA_ESC (R141). -/
def execRDataEsc (s : State L) : Result L :=
  match s.rx.st, s.rx.esc, s.recvByte with
  | .data, false, some b => if b = 0x7D then .next { s.consumeSymbol with rx := { s.rx with esc := true } } else hold s
  | _, _, _ => hold s

/-- R_ESC_OK (R142). -/
def execREscOk (s : State L) : Result L :=
  match s.rx.st, s.rx.esc, s.recvByte with
  | .data, true, some b =>
    if (unstuff2 b).2 then
      .next { s.consumeSymbol with rx := RxRegs.accept { s.rx with esc := false } (unstuff2 b).1 }
    else hold s
  | _, _, _ => hold s

/-- R_ESC_BAD (R143). -/
def execREscBad (s : State L) : Result L :=
  match s.rx.st, s.rx.esc, s.recvByte with
  | .data, true, some b =>
    if (unstuff2 b).2 then hold s
    else .next { s.consumeSymbol with rx := RxRegs.accept { s.rx with esc := false, serr := true } (unstuff2 b).1 }
  | _, _, _ => hold s

/-- R_CS1 (R145). -/
def execRCs1 (s : State L) : Result L :=
  match s.rx.st, s.recvByte with
  | .cs1, some b => .next { s.consumeSymbol with rx := { s.rx with c1 := b, st := .cs2 } }
  | _, _ => hold s

/-- R_CS2 (R146). -/
def execRCs2 (s : State L) : Result L := cs2Step s

/-- R_ACK_INSERT (R147). -/
def execRAckInsert (s : State L) : Result L := ackInsertStep s

/-- R_ACK_HOLD (R148): the Receiver has no step; it holds. -/
def execRAckHold (s : State L) : Result L := hold s

/-- R_ACK_ABORT (R149). -/
def execRAckAbort (s : State L) : Result L := ackAbortStep s

/-- R_ACK_NONE (R150). -/
def execRAckNone (s : State L) : Result L :=
  if s.rx.st = .ack ∧ s.rx.ackreq = false then .next (s.rxGoto .gate) else hold s

/-- R_GATE (R151), with the dispatch start that is part of it (45_dispatch R160). -/
def execRGate (s : State L) : Result L :=
  if s.rx.st = .gate then
    if s.rx.ok = true ∧ 1 ≤ s.rx.len.toNat then .next s.gateSet.startDispatch else .next (s.gateSet.rxGoto .hunt)
  else hold s

/-- R_DELIVER_OK (45_dispatch R161). -/
def execRDeliverOk (s : State L) : Result L :=
  match s.offer, s.lisAns with
  | some _, some .accept => .next s.advance
  | _, _ => hold s

/-- R_DELIVER_FAULT (45_dispatch R162). -/
def execRDeliverFault (s : State L) : Result L :=
  match s.offer, s.lisAns with
  | some n, some .fault => .next (s.raise [.listenerFault n.lid n.type6]).advance
  | _, _ => hold s

/-- The events of a Receiver that reads CLOSED or RD_ERR (R153). -/
def RxRegs.closeEvents (r : RxRegs L) (reason : RxStopReason) : List (Event L) :=
  (if r.st.midFrame then [.rxPartial r.st.code] else []) ++ [.rxStopped reason]

/-- The Receiver stops at its read (R153). -/
def State.rxClose (s : State L) (reason : RxStopReason) : State L :=
  (s.consumeSymbol.raise (s.rx.closeEvents reason)).rxGoto .stopped

/-- R_CLOSE (R153). -/
def execRClose (s : State L) : Result L :=
  match s.rx.st.reading, s.recv with
  | true, some .closed => .next (s.rxClose .closed)
  | true, some .rdErr => .next (s.rxClose .readError)
  | _, _ => hold s

end Sys2Proof.Machine
end

