-- ==== Sys2Proof/Machine/Transmitter.lean ====
section
/-! DEFINITION. The Transmitter's steps (43_transmitter), with the priorities of 60_exceptions R196 in their enabling
conditions. -/

namespace Sys2Proof.Machine

variable {L : Type}

/-- T_READY (R123). -/
def execTReady (s : State L) : Result L :=
  if s.tx.st = .wait ∧ s.cancel = false ∧ s.gate = true then .next (s.consumeAtWaitExit.txGoto .take) else hold s

/-- T_TIMEOUT (R124). -/
def execTTimeout (s : State L) : Result L :=
  if s.tx.st = .wait ∧ s.cancel = false ∧ s.gate = false ∧ s.tx.deadline ≤ s.now then
    .next ((s.raise [.gateTimeout]).txGoto .take)
  else hold s

/-- T_CANCEL (R125). -/
def execTCancel (s : State L) : Result L :=
  if (s.tx.st = .wait ∨ s.tx.st = .take) ∧ s.cancel = true then .next (s.txStop .cancelled) else hold s

/-- T_TAKE (R126). -/
def execTTake (s : State L) : Result L := takeStep s

/-- T_EMIT (R127): the sink's answer ACCEPT is used up with the byte. -/
def execTEmit (s : State L) : Result L :=
  match s.tx.st, s.tx.frame, s.streamOpen, s.sinkAns with
  | .send, b :: rest, true, .accept :: answers =>
    .next { s with wireOut := s.wireOut ++ [b], tx := { s.tx with frame := rest }, sinkAns := answers }
  | _, _, _, _ => hold s

/-- T_WRERR (R128): a closed stream fails the byte without the sink; else the sink's answer ERROR is used up. -/
def execTWrerr (s : State L) : Result L :=
  match s.tx.st, s.tx.frame, s.streamOpen, s.sinkAns with
  | .send, _ :: _, false, _ => .next (s.txStop .writeError)
  | .send, _ :: _, true, .error :: answers => .next (State.txStop { s with sinkAns := answers } .writeError)
  | _, _, _, _ => hold s

/-- T_END's effect (R129). -/
def State.endFrame (s : State L) : State L :=
  { s with
    gate := if s.tx.isAck then true else s.gate
    tx := { s.tx with st := .wait, deadline := s.now + s.cfg.gateTimeoutMs } }

/-- T_END (R129). -/
def execTEnd (s : State L) : Result L :=
  if s.tx.st = .send ∧ s.tx.frame = [] then .next s.endFrame else hold s

end Sys2Proof.Machine
end

