-- ==== Sys2Proof/Machine/Wire.lean ====
section
/-! DEFINITION. The wire codes, the type byte and the listener port (30_encoding R61 to R74, R81). The wire rows are steps
of the wire source, which makes the bytes available to the Receiver while the stream is open (log 14); the type rows are the
block's own steps that interpret such a type byte (R69, log 15); NOTIFY is the listener's step (log 9). -/

namespace Sys2Proof.Machine

variable {L : Type}

/-- FLAG: the start byte `7E` (R61). -/
def execFlag (s : State L) : Result L := .next (s.supply [flagByte])

/-- ESCAPE: the escape byte `7D` (R73). -/
def execEscape (s : State L) : Result L := .next (s.supply [escapeByte])

/-- ESC_7E: the pair `7D 5E`, the data byte `7E` (R73). -/
def execEsc7E (s : State L) : Result L := .next (s.supply (stuff 0x7E))

/-- ESC_7D: the pair `7D 5D`, the data byte `7D` (R73). -/
def execEsc7D (s : State L) : Result L := .next (s.supply (stuff 0x7D))

/-- ESC_ILLEGAL: the pair `7D x`, `x` neither `5E` nor `5D` (R74). -/
def execEscIllegal (code : Byte) (s : State L) : Result L := .next (s.supply [escapeByte, code])

/-- FRAME: one whole frame in wire order (R61, 20_memory R48). -/
def execFrame (len : Byte) (data : List Byte) (cs1 cs2 : Byte) (s : State L) : Result L :=
  .next (s.supply (flagByte :: len :: (data ++ [cs1, cs2])))

/-- ACKREQ (R67): the Receiver in RX_ACK, with this type byte as byte 0, inserts the bare acknowledgment, aborts where it
may not, or holds (44_receiver R147 to R149). -/
def execAckreq (rsvd : Bool) (type6 : BitVec 6) (s : State L) : Result L :=
  if s.rx.typeIs (typeByte true rsvd type6) then
    if s.hasSpace then ackInsertStep s else ackAbortStep s
  else hold s

/-- TYPE_BARE_ACK (43_transmitter R131): the Transmitter takes a message with this type byte, and marks it as a bare
acknowledgment whose end sets the gate (R126, R129). -/
def execTypeBareAck (ackreq rsvd : Bool) (s : State L) : Result L :=
  if s.nextTypeIs (typeByte ackreq rsvd bareAckType) then takeStep s else hold s

/-- TYPE_EXEMPT (40_codec R96): the Receiver ends a frame with this type byte, exempt from the checksum comparison
(44_receiver R146). -/
def execTypeExempt (ackreq rsvd : Bool) (s : State L) : Result L :=
  if s.rx.typeIs (typeByte ackreq rsvd exemptType) then cs2Step s else hold s

/-- NOTIFY (R81, 45_dispatch R161, R162): listener `lid`, if it is the one the notification is offered to and has not
answered, takes it and answers. -/
def execNotify [DecidableEq L] (lid : L) (ans : ListenerAnswer) (s : State L) : Result L :=
  match s.offer, s.lisAns with
  | some n, none =>
    if n.isFor lid then .next { s with notes := s.notes ++ [(n, ans)], lisAns := some ans } else hold s
  | _, _ => hold s

end Sys2Proof.Machine
end

