-- ==== Sys2Proof/Machine/Dispatch.lean ====
section
/-! DEFINITION. Dispatch: one arm per instruction, each one call of its meaning. -/

namespace Sys2Proof.Machine

def exec (i : Instr) (s : State) : Host.Outcome State Fault Refusal :=
  match i with
  | .reserved0 h => Sys2Proof.Machine.execReserved0 h s
  | .connect h => Sys2Proof.Machine.execConnect h s
  | .disconnect h => Sys2Proof.Machine.execDisconnect h s
  | .send h msg => Sys2Proof.Machine.execSend h msg s
  | .sendTimed h msg tMs => Sys2Proof.Machine.execSendTimed h msg tMs s
  | .subscribe h lid => Sys2Proof.Machine.execSubscribe h lid s
  | .unsubscribe h lid => Sys2Proof.Machine.execUnsubscribe h lid s
  | .setClock h year month day hour minute dow => Sys2Proof.Machine.execSetClock h year month day hour minute dow s
  | .querySize h => Sys2Proof.Machine.execQuerySize h s
  | .queryFull h => Sys2Proof.Machine.execQueryFull h s
  | .reservedA h => Sys2Proof.Machine.execReservedA h s
  | .reservedB h => Sys2Proof.Machine.execReservedB h s
  | .reservedC h => Sys2Proof.Machine.execReservedC h s
  | .reservedD h => Sys2Proof.Machine.execReservedD h s
  | .reservedE h => Sys2Proof.Machine.execReservedE h s
  | .reservedF h => Sys2Proof.Machine.execReservedF h s
  | .append h m => Sys2Proof.Machine.execAppend h m s
  | .appendTimed h m tMs => Sys2Proof.Machine.execAppendTimed h m tMs s
  | .prepend m => Sys2Proof.Machine.execPrepend m s
  | .take => Sys2Proof.Machine.execTake s
  | .size h => Sys2Proof.Machine.execSize h s
  | .isFull h => Sys2Proof.Machine.execIsFull h s
  | .flag => Sys2Proof.Machine.execFlag s
  | .escape => Sys2Proof.Machine.execEscape s
  | .esc7E => Sys2Proof.Machine.execEsc7E s
  | .esc7D => Sys2Proof.Machine.execEsc7D s
  | .escIllegal code => Sys2Proof.Machine.execEscIllegal code s
  | .frame len data cs1 cs2 => Sys2Proof.Machine.execFrame len data cs1 cs2 s
  | .ackreq rsvd type6 => Sys2Proof.Machine.execAckreq rsvd type6 s
  | .typeBareAck ackreq rsvd => Sys2Proof.Machine.execTypeBareAck ackreq rsvd s
  | .typeExempt ackreq rsvd => Sys2Proof.Machine.execTypeExempt ackreq rsvd s
  | .notify lid ans => Sys2Proof.Machine.execNotify lid ans s
  | .tReady => Sys2Proof.Machine.execTReady s
  | .tTimeout => Sys2Proof.Machine.execTTimeout s
  | .tCancel => Sys2Proof.Machine.execTCancel s
  | .tTake => Sys2Proof.Machine.execTTake s
  | .tEmit => Sys2Proof.Machine.execTEmit s
  | .tWrerr => Sys2Proof.Machine.execTWrerr s
  | .tEnd => Sys2Proof.Machine.execTEnd s
  | .rHuntSkip => Sys2Proof.Machine.execRHuntSkip s
  | .rHuntFlag => Sys2Proof.Machine.execRHuntFlag s
  | .rLen => Sys2Proof.Machine.execRLen s
  | .rDataPlain => Sys2Proof.Machine.execRDataPlain s
  | .rDataEsc => Sys2Proof.Machine.execRDataEsc s
  | .rEscOk => Sys2Proof.Machine.execREscOk s
  | .rEscBad => Sys2Proof.Machine.execREscBad s
  | .rCs1 => Sys2Proof.Machine.execRCs1 s
  | .rCs2 => Sys2Proof.Machine.execRCs2 s
  | .rAckInsert => Sys2Proof.Machine.execRAckInsert s
  | .rAckHold => Sys2Proof.Machine.execRAckHold s
  | .rAckAbort => Sys2Proof.Machine.execRAckAbort s
  | .rAckNone => Sys2Proof.Machine.execRAckNone s
  | .rGate => Sys2Proof.Machine.execRGate s
  | .rDeliverOk => Sys2Proof.Machine.execRDeliverOk s
  | .rDeliverFault => Sys2Proof.Machine.execRDeliverFault s
  | .rClose => Sys2Proof.Machine.execRClose s
  | .disconnectComplete => Sys2Proof.Machine.execDisconnectComplete s
  | .insertRelease h op => Sys2Proof.Machine.execInsertRelease h op s

end Sys2Proof.Machine
end

