-- ==== Sys2Proof/Machine/Fetch.lean ====
section
/-! DEFINITION. Where the next step comes from (00_scope R6, R18): the environment's choice, and the steps of the wall
clock, the wire source and the wire sink. -/

namespace Sys2Proof.Machine

variable {L : Type}

/-- The next choice of the environment: the one placed in front, else the next of the free stream (log 1). -/
def State.fetch (s : State L) : Choice :=
  match s.sched with
  | c :: _ => c
  | [] => Config.environment s.draws

/-- The state once the choice is taken up. -/
def State.fetched (s : State L) : State L :=
  match s.sched with
  | _ :: rest => { s with sched := rest }
  | [] => s.drawn

/-- The state in which the chosen instruction runs. -/
def State.withSplit (s : State L) (b : Bool) : State L := { s with split := b }

/-- The wall clock advances by any amount (10_state R36, 60_exceptions R202). -/
def State.tick (s : State L) (ms : Nat) : State L := { s with now := s.now + ms }

/-- The wire source gives up what it has not delivered (log 7). -/
def State.dropSymbols (s : State L) : State L := { s with wireIn := [] }

/-- The wire sink will answer the next bytes so, in order. It does so while the stream is open: no byte is offered to it
while the stream is closed, and it has no step (43_transmitter R127, R128; 70_reset R206). -/
def State.offerAnswers (s : State L) (answers : List SinkAnswer) : State L :=
  if s.streamOpen then { s with sinkAns := s.sinkAns ++ answers } else s

/-- The wire sink gives up the answers it has not given (log 8). -/
def State.dropAnswers (s : State L) : State L := { s with sinkAns := [] }

/-- What a packet that is no instruction does: the codes that are never issued are a fault (93_implementation_defined U15,
U16), every other is refused by name (log 18). -/
def rejectPacket (r : Reject) : Result L :=
  match r with
  | .queueCode c => .fault (.queuePortCode c)
  | .stateCode c => .fault (.stateCode c)
  | .codeLength => .refused (.undecodable .codeLength)
  | .operands => .refused (.undecodable .operands)
  | .noStep => .refused (.undecodable .noStep)
  | .wireByte => .refused (.undecodable .wireByte)
  | .escapePair => .refused (.undecodable .escapePair)
  | .frameShape => .refused (.undecodable .frameShape)
  | .typeField => .refused (.undecodable .typeField)
  | .hostStepOp => .refused (.undecodable .hostStepOp)

/-- The environment makes the choice `c`: the next step takes it (00_scope R18, log 1). -/
def State.choosing (s : State L) (c : Choice) : State L := { s with sched := c :: s.sched }

/-- A word of the opcode table placed as the environment's next choice, the instruction in one piece (log 1, 17). -/
def State.placeWord (s : State L) (nbits w : Nat) : State L := s.choosing (.act false (Packet.ofTableWord nbits w))

end Sys2Proof.Machine
end

