-- ==== Sys2Proof/Machine/Step.lean ====
section
/-! DEFINITION. The step: one choice of the environment, carried out. -/

namespace Sys2Proof.Machine

/-- One step of the whole system (00_scope R18): the chosen agent's instruction, decoded and run, or a step of the wall
clock, the wire source or the wire sink. -/
def step (s : State) : Host.Outcome State Fault Refusal :=
  match s.fetch with
  | .act split p =>
    match decode p with
    | .ok i => exec i (s.fetched.withSplit split)
    | .reject r => rejectPacket r
  | .clock ms => .next (s.fetched.tick ms)
  | .wire xs => .next (s.fetched.offerSymbols xs)
  | .wireLost => .next s.fetched.dropSymbols
  | .sink answers => .next (s.fetched.offerAnswers answers)
  | .sinkLost => .next s.fetched.dropAnswers

/-- `s` with a word of the opcode table where the next step fetches its choice. -/
def State.withFetchWord (s : State) (nbits w : Nat) : State := s.placeWord nbits w

end Sys2Proof.Machine
end

