-- ==== Sys2Proof/Machine/Ring.lean ====
section
/-! DEFINITION. The storage realisation of the Transfer Queue: `P_QCAP` slots, a head index and a count (20_memory R47).
The state holds the abstract list (10_state R24); this is the realisation the spec says a hardware queue may have. -/

namespace Sys2Proof.Machine

/-- The circular buffer (R47). A slot holds a message; its length byte is the message's length. -/
structure Ring where
  slots : List Message
  hd    : Nat
  cnt   : Nat
  deriving DecidableEq, Repr, Inhabited

/-- The capacity, P_QCAP. -/
def Ring.cap (r : Ring) : Nat := r.slots.length

/-- The ranges of R47: `hd` in `0 .. P_QCAP-1`, `cnt` in `0 .. P_QCAP`. -/
abbrev Ring.wf (r : Ring) : Prop := r.hd < r.cap ∧ r.cnt ≤ r.cap

/-- The slot of the `i`-th entry. -/
def Ring.slotOf (r : Ring) (i : Nat) : Nat := (r.hd + i) % r.cap

/-- The abstract list: `slot[(hd + i) mod P_QCAP]` for `i` in `0 .. cnt-1`. -/
def Ring.toQueue (r : Ring) : List Message := (List.range r.cnt).filterMap fun i => r.slots[r.slotOf i]?

/-- APPEND on the slots; `none` is the hold of a full queue. -/
def Ring.append (r : Ring) (m : Message) : Option Ring :=
  if r.cnt < r.cap then some { r with slots := r.slots.set (r.slotOf r.cnt) m, cnt := r.cnt + 1 } else none

/-- PREPEND on the slots; `none` is the hold of a full queue. -/
def Ring.prepend (r : Ring) (m : Message) : Option Ring :=
  if r.cnt < r.cap then
    some { slots := r.slots.set ((r.hd + r.cap - 1) % r.cap) m, hd := (r.hd + r.cap - 1) % r.cap, cnt := r.cnt + 1 }
  else none

/-- TAKE on the slots; `none` is the hold of an empty queue. -/
def Ring.take (r : Ring) : Option (Message × Ring) :=
  if 1 ≤ r.cnt then
    match r.slots[r.hd]? with
    | some m => some (m, { r with hd := (r.hd + 1) % r.cap, cnt := r.cnt - 1 })
    | none => none
  else none

end Sys2Proof.Machine
end

