-- ==== Sys2Proof/Machine/Schedule.lean ====
section
/-! DEFINITION. The steps each agent may take, in the priority order of 60_exceptions R196, and the RUN of the program
notation (30_encoding R85). `step` does not use this file: between agents there is no priority (00_scope R18). -/

namespace Sys2Proof.Machine

/-- The instruction is enabled: it has an effect, where a step that is not enabled holds (00_scope R17). -/
def moves (s : State) (i : Instr) : Bool :=
  match exec i s with
  | .next t => decide (t ≠ s)
  | _ => false

/-- The Transmitter's steps, highest priority first in every state (60_exceptions R196). -/
def txSteps : List Instr := [.tCancel, .tReady, .tTimeout, .tTake, .tWrerr, .tEmit, .tEnd]

/-- The Receiver's steps (44_receiver, 45_dispatch). -/
def rxSteps : List Instr :=
  [.rHuntSkip, .rHuntFlag, .rLen, .rDataPlain, .rDataEsc, .rEscOk, .rEscBad, .rCs1, .rCs2, .rAckInsert, .rAckAbort,
    .rAckNone, .rGate, .rDeliverOk, .rDeliverFault, .rClose]

/-- The later steps of host port `h`, highest priority first (60_exceptions R196). -/
def portSteps (s : State) (h : Nat) : List Instr :=
  match s.hostCmd h with
  | some (.send m) => [.append h m, .insertRelease h .send]
  | some (.setClock m) => [.append h m, .insertRelease h .setClock]
  | some (.sendTimed m t) => [.appendTimed h m t, .insertRelease h .sendTimed]
  | some .disconnect => [.disconnectComplete]
  | none => []

/-- The later steps of all host ports. DESIGN CHOICE (log 26): R85 puts the host ports before the other agents and says
nothing of which port goes first when several have an enabled step (41_queue R109 lets any inserter go first); RUN takes
the lowest port first. `step` admits every order. -/
def hostSteps (s : State) : List Instr := (List.range s.host.length).flatMap (portSteps s)

/-- The step of the listener that is offered a notification, `answers` saying how each listener answers (R85). -/
def listenerSteps (answers : List (LID × ListenerAnswer)) (s : State) : List Instr :=
  match s.offer with
  | some n =>
    match answers.find? fun a => decide (a.1 = n.lid) with
    | some a => [.notify n.lid a.2]
    | none => []
  | none => []

/-- The step RUN takes next: host ports, then listeners, then the Receiver, then the Transmitter (30_encoding R85); among
the host ports the lowest first, which is the model's choice (log 26). -/
def runPick (answers : List (LID × ListenerAnswer)) (s : State) : Option Instr :=
  (hostSteps s ++ listenerSteps answers s ++ rxSteps ++ txSteps).find? (moves s)

/-- The wire sink is asked for an answer and has none ready (43_transmitter R127). -/
def State.sinkAsked (s : State) : Bool :=
  decide (s.tx.st = .send ∧ s.tx.frame ≠ [] ∧ s.streamOpen = true ∧ s.sinkAns = [])

/-- RUN, for at most `fuel` steps: the sink accepts every byte unless an answer is pending, and the clock does not move
(30_encoding R85). -/
def run (answers : List (LID × ListenerAnswer)) : Nat → State → State
  | 0, s => s
  | fuel + 1, s =>
    match runPick answers s with
    | some i =>
      match exec i s with
      | .next t => run answers fuel t
      | _ => s
    | none => if s.sinkAsked then run answers fuel (s.offerAnswers [.accept]) else s

/-- The instructions run one after the other, with no step of another agent between them. -/
def runAll : List Instr → State → Result
  | [], s => .next s
  | i :: rest, s =>
    match exec i s with
    | .next t => runAll rest t
    | .fault r => .fault r
    | .refused r => .refused r

/-- The Receiver's step on the byte it is offered in a reading state (44_receiver R137 to R146). -/
def readInstr (s : State) : Option Instr :=
  match s.rx.st, s.recvByte with
  | .hunt, some b => some (if b = 0x7E then .rHuntFlag else .rHuntSkip)
  | .len, some _ => some .rLen
  | .data, some b =>
    some (if s.rx.esc then (if (unstuff2 b).2 then .rEscOk else .rEscBad)
      else if b = 0x7D then .rDataEsc else .rDataPlain)
  | .cs1, some _ => some .rCs1
  | .cs2, some _ => some .rCs2
  | _, _ => none

/-- The Receiver reads `n` bytes, with no step of another agent between them. -/
def receive : Nat → State → State
  | 0, s => s
  | n + 1, s =>
    match readInstr s with
    | some i =>
      match exec i s with
      | .next t => receive n t
      | _ => s
    | none => s

/-- The Transmitter's steps that send the message `m`, the gate being as it is (43_transmitter R123 to R129). -/
def sendSteps (gate : Bool) (m : Message) : List Instr :=
  [if gate then .tReady else .tTimeout, .tTake] ++ List.replicate (encodeFrame m).length .tEmit ++ [.tEnd]

/-- The step that ends a delivery whose listener answered so (45_dispatch R161, R162). -/
def deliverInstr : ListenerAnswer → Instr
  | .accept => .rDeliverOk
  | .fault => .rDeliverFault

/-- The steps that deliver one frame to listeners that answer so, in order (45_dispatch R161 to R163). -/
def deliverSteps (answers : List (LID × ListenerAnswer)) : List Instr :=
  answers.flatMap fun a => [.notify a.1 a.2, deliverInstr a.2]

end Sys2Proof.Machine
end

