-- ==== Sys2Proof/Safety.lean ====
section
/-! DEFINITION. Safety: the states the rules of the spec keep (10_state, 41_queue R102, 44_receiver R144, 45_dispatch
R157), what the Transmitter has written, and the registers that hold no value of the spec. -/

namespace Sys2Proof.Machine

variable {L : Type}

/-- 41_queue R102. -/
abbrev State.queueOk (s : State L) : Prop := s.q.length ≤ s.cfg.qcap ∧ ∀ m ∈ s.q, m.length ≤ 255

/-- 45_dispatch R157. -/
abbrev State.registryOk (s : State L) : Prop := s.reg.Nodup ∧ s.reg.length ≤ s.cfg.lmax

/-- Each connection state with the loops and the stream it goes with (10_state R21 to R23; 46_host_ops R168 to R171). -/
def State.connOk (s : State L) : Prop :=
  match s.conn with
  | .disconnected => s.streamOpen = false ∧ s.tx.st = .off ∧ s.rx.st = .off ∧ s.q = [] ∧ s.reg = []
  | .connected => s.streamOpen = true ∧ s.cancel = false ∧ s.tx.st ≠ .off ∧ s.rx.st ≠ .off
  | .closing => s.streamOpen = false ∧ s.cancel = true ∧ s.tx.st ≠ .off ∧ s.rx.st ≠ .off

/-- The Transmitter's registers where they are read: the deadline is at most one timeout away (10_state R27), and the frame
is the end of the frame of one message (43_transmitter R126, R127). -/
def State.txOk (s : State L) : Prop :=
  (s.tx.st = .wait → s.tx.deadline ≤ s.now + s.cfg.gateTimeoutMs) ∧
  (s.tx.st = .send → ∃ m : Message, m.length ≤ 255 ∧ s.tx.frame <:+ encodeFrame m ∧ s.tx.isAck = isBareAck m)

/-- The two sums are those of 40_codec R87 after the bytes in the buffer (44_receiver R144). -/
def RxRegs.sumsOk (r : RxRegs L) : Prop := (r.s1, r.s2) = r.buf.foldl sumStep (r.len, r.len)

/-- A whole payload has been read (44_receiver R144). -/
def RxRegs.payloadOk (r : RxRegs L) : Prop := r.buf.length = r.len.toNat ∧ r.esc = false ∧ r.sumsOk

/-- The Receiver's registers in each state that reads them (44_receiver R139 to R151, 45_dispatch R160). -/
def State.rxOk (s : State L) : Prop :=
  match s.rx.st with
  | .data => s.rx.buf.length < s.rx.len.toNat ∧ s.rx.sumsOk
  | .cs1 => s.rx.payloadOk
  | .cs2 => s.rx.payloadOk
  | .ack => s.rx.payloadOk ∧ s.rx.ok = valid s.rx.buf s.rx.c1 s.rx.c2 s.rx.serr
  | .gate => s.rx.payloadOk ∧ s.rx.ok = valid s.rx.buf s.rx.c1 s.rx.c2 s.rx.serr
  | .dispatch =>
    s.rx.payloadOk ∧ s.rx.ok = true ∧ s.rx.ok = valid s.rx.buf s.rx.c1 s.rx.c2 s.rx.serr ∧ 1 ≤ s.rx.len.toNat ∧
      s.rx.idx < s.rx.snap.length ∧ s.rx.snap.Nodup ∧ s.rx.snap.length ≤ s.cfg.lmax
  | .off => True
  | .hunt => True
  | .len => True
  | .stopped => True

/-- What a host port can be found executing: a held message fits a frame, and DISCONNECT is held only while closing
(46_host_ops R170, R172, R174). -/
def HostPort.okIn (p : HostPort) (c : Conn) : Prop :=
  match p.cmd with
  | some (.send m) => m.length ≤ 255
  | some (.sendTimed m _) => m.length ≤ 255
  | some (.setClock m) => m.length ≤ 255
  | some .disconnect => c = .closing
  | none => True

/-- The host ports: as many as were built, and while closing some port waits for the completion (46_host_ops R170). -/
def State.hostOk (s : State L) : Prop :=
  s.host.length = s.cfg.hosts ∧ (∀ p ∈ s.host, p.okIn s.conn) ∧
    (s.conn = .closing → ∃ p ∈ s.host, p.cmd = some .disconnect)

/-- A listener's answer waits for the Receiver only during a dispatch. -/
def State.listenerOk (s : State L) : Prop := s.rx.st ≠ .dispatch → s.lisAns = none

/-- The states the block keeps to. -/
structure State.Inv (s : State L) : Prop where
  config : s.cfg.legal
  queue : s.queueOk
  registry : s.registryOk
  conn : s.connOk
  tx : s.txOk
  rx : s.rxOk
  host : s.hostOk
  listener : s.listenerOk

/-- What a run may end in: every step of a safe run answers a next state. -/
def isNext : Result L → Bool
  | .next _ => true
  | .fault _ => false
  | .refused _ => false

/-- What stands on the wire since `base`: the frames of the messages taken, in order, then the written part of the frame
being written, or of the frame that a write failure cut (43_transmitter R133). -/
def State.wireShape (base : List Byte) (s : State L) : Prop :=
  ∃ (ms : List Message) (m : Message) (part : List Byte),
    s.wireOut = base ++ ms.flatMap encodeFrame ++ part ∧ part <+: encodeFrame m ∧
      (s.tx.st = .send → part ++ s.tx.frame = encodeFrame m) ∧
      (s.tx.st = .wait ∨ s.tx.st = .take → part = [])

/-- The Transmitter's registers with those that no rule reads in this state set to their power-on values (70_reset R209). -/
def TxRegs.erase (r : TxRegs) : TxRegs :=
  match r.st with
  | .wait => { TxRegs.powerOn with st := .wait, deadline := r.deadline }
  | .send => { TxRegs.powerOn with st := .send, frame := r.frame, isAck := r.isAck }
  | .off => { TxRegs.powerOn with st := .off }
  | .take => { TxRegs.powerOn with st := .take }
  | .stopped => { TxRegs.powerOn with st := .stopped }

/-- The same for the Receiver: the frame registers are read from RX_DATA on, `c1` in RX_CS2, `ok` up to RX_GATE, the
snapshot in RX_DISPATCH (70_reset R209). -/
def RxRegs.erase (r : RxRegs L) : RxRegs L :=
  match r.st with
  | .off => { (RxRegs.powerOn : RxRegs L) with st := .off }
  | .hunt => { (RxRegs.powerOn : RxRegs L) with st := .hunt }
  | .len => { (RxRegs.powerOn : RxRegs L) with st := .len }
  | .data =>
    { (RxRegs.powerOn : RxRegs L) with
      st := .data, len := r.len, buf := r.buf, esc := r.esc, serr := r.serr, s1 := r.s1, s2 := r.s2 }
  | .cs1 =>
    { (RxRegs.powerOn : RxRegs L) with st := .cs1, len := r.len, buf := r.buf, serr := r.serr, s1 := r.s1, s2 := r.s2 }
  | .cs2 =>
    { (RxRegs.powerOn : RxRegs L) with
      st := .cs2, len := r.len, buf := r.buf, serr := r.serr, s1 := r.s1, s2 := r.s2, c1 := r.c1 }
  | .ack => { (RxRegs.powerOn : RxRegs L) with st := .ack, len := r.len, buf := r.buf, ok := r.ok }
  | .gate => { (RxRegs.powerOn : RxRegs L) with st := .gate, len := r.len, buf := r.buf, ok := r.ok }
  | .dispatch =>
    { (RxRegs.powerOn : RxRegs L) with st := .dispatch, buf := r.buf, snap := r.snap, idx := r.idx }
  | .stopped => { (RxRegs.powerOn : RxRegs L) with st := .stopped }

/-- The same for a host port: the deadline is read while the port executes SEND_TIMED (70_reset R209). -/
def HostPort.erase (p : HostPort) : HostPort :=
  match p.cmd with
  | some (.sendTimed _ _) => p
  | some (.send _) => { p with deadline := 0 }
  | some (.setClock _) => { p with deadline := 0 }
  | some .disconnect => { p with deadline := 0 }
  | none => { p with deadline := 0 }

/-- The state without the values that no rule reads before it writes them (10_state R45, 70_reset R209). -/
def State.erase (s : State L) : State L :=
  { s with tx := s.tx.erase, rx := s.rx.erase, host := s.host.map HostPort.erase }

/-- Host port `h` exists with registers `p` and executes nothing. -/
abbrev State.idleAt (s : State L) (h : Nat) (p : HostPort) : Prop := s.host[h]? = some p ∧ p.cmd = none

/-- The state after host port `h`, whose registers are `p`, responds (30_encoding R78): the command ends. -/
def State.answered (s : State L) (h : Nat) (p : HostPort) (status : Status) (reason : Reason) (value : Option QueryValue) :
    State L :=
  { s with
    host := s.host.set h
      { cmd := none, deadline := p.deadline
        resp := p.resp ++ [{ status := status, reason := reason, value := value }] } }

/-- The state after host port `h`, whose registers are `p`, takes command `c` and holds. -/
def State.executing (s : State L) (h : Nat) (p : HostPort) (c : HostCmd) : State L :=
  { s with host := s.host.set h { p with cmd := some c } }

/-- The state with events appended (60_exceptions R187). -/
def State.logged (s : State L) (es : List (Event L)) : State L := { s with ev := s.ev ++ es }

/-- The host port whose issue step the instruction is (46_host_ops R167): a host command, or a query through the queue port
(30_encoding R80). -/
def issuePort (i : Instr L) : Option Nat :=
  match i with
  | .reserved0 h | .connect h | .disconnect h | .send h _ | .sendTimed h _ _ | .subscribe h _ | .unsubscribe h _
  | .setClock h _ _ _ _ _ _ | .querySize h | .queryFull h | .reservedA h | .reservedB h | .reservedC h | .reservedD h
  | .reservedE h | .reservedF h | .size h | .isFull h => some h
  | .append _ _ | .appendTimed _ _ _ | .prepend _ | .take | .flag | .escape | .esc7E | .esc7D | .escIllegal _
  | .frame _ _ _ _ | .ackreq _ _ | .typeBareAck _ _ | .typeExempt _ _ | .notify _ _ | .tReady | .tTimeout | .tCancel
  | .tTake | .tEmit | .tWrerr | .tEnd | .rHuntSkip | .rHuntFlag | .rLen | .rDataPlain | .rDataEsc | .rEscOk | .rEscBad
  | .rCs1 | .rCs2 | .rAckInsert | .rAckHold | .rAckAbort | .rAckNone | .rGate | .rDeliverOk | .rDeliverFault | .rClose
  | .disconnectComplete | .insertRelease _ _ => none

/-- The answer with its next state changed by `f`. -/
def mapNext {M : Type} (f : State L → State M) : Result L → Result M
  | .next s => .next (f s)
  | .fault r => .fault r
  | .refused r => .refused r

end Sys2Proof.Machine
end

