-- ==== Sys2Proof/Certificates/Slice0/Obligations.lean ====
section
/-! DEFINITION. The statements for the provers. Each result statement gives the whole next state, so that what it does not
name is unchanged. OBLIGATIONS.json cites the rule each formalises. -/

open Sys2Proof Sys2Proof.Machine

/-! ### The codec -/

/-- 40_codec R86: the sum, its range, and the 8-bit end-around-carry adder. -/
def Obligations.Add255IsEndAroundCarry : Prop :=
  ∀ a b : Byte,
    (add255 a b).toNat = (a.toNat + b.toNat) % 255 ∧ (add255 a b).toNat ≤ 254 ∧
    (add255 a b).toNat =
      (let t := a.toNat + b.toNat
       let u := if 255 < t then t - 256 + 1 else t
       if u = 255 then 0 else u)

/-- 40_codec R88: the closed form, and the two-sum of the length byte followed by the message. -/
def Obligations.ChecksumClosedForm : Prop :=
  ∀ m : Message, m.length ≤ 255 →
    (checksum m).1.toNat = (m.length + ∑ i : Fin m.length, (m.get i).toNat) % 255 ∧
    (checksum m).2.toNat =
      (m.length * (m.length + 1) + ∑ i : Fin m.length, (m.length - i.val) * (m.get i).toNat) % 255 ∧
    checksum m = (BitVec.ofNat 8 m.length :: m).foldl sumStep (0, 0)

/-- 40_codec R89: the range of the bytes, `00` against `FF`, purity, the swap of two bytes, 255 equal bytes. -/
def Obligations.ChecksumCornerCases : Prop :=
  (∀ m : Message, m.length ≤ 255 → (checksum m).1.toNat ≤ 254 ∧ (checksum m).2.toNat ≤ 254) ∧
  (∀ pre post : Message, (pre ++ 0x00 :: post).length ≤ 255 →
    checksum (pre ++ 0x00 :: post) = checksum (pre ++ 0xFF :: post)) ∧
  (checksum [0x00] = (0x01, 0x02) ∧ checksum [0xFF] = (0x01, 0x02)) ∧
  (∀ m n : Message, m = n → checksum m = checksum n) ∧
  (∀ (m : Message) (i j : Fin m.length), m.length ≤ 255 →
    let a : Int := (m.get i).toNat
    let b : Int := (m.get j).toNat
    let n := (m.set i (m.get j)).set j (m.get i)
    let d := (a - b) * ((i.val : Int) - (j.val : Int))
    (checksum n).1 = (checksum m).1 ∧
    (((checksum n).2.toNat : Int) - (checksum m).2.toNat) % 255 = d % 255 ∧
    (checksum n = checksum m ↔ d % 255 = 0)) ∧
  (∀ x ∈ [(0x00 : Byte), 0xFF, 0x7E], checksum (List.replicate 255 x) = (0x00, 0x00))

/-- 40_codec R99: the decoder gives back every byte and every message, and stuffing is injective. -/
def Obligations.UnstuffInvertsStuff : Prop :=
  (∀ b : Byte, readData 1 (stuff b) = some ([b], false, [])) ∧
  (∀ (m : Message) (r : List Byte), readData m.length (stuffSeq m ++ r) = some (m, false, r)) ∧
  (∀ m n : Message, stuffSeq m = stuffSeq n → m = n)

/-- 30_encoding R65: the wire length, the stuffed byte count, and the bounds, which are reached. -/
def Obligations.FrameWireLength : Prop :=
  ∀ m : Message, m.length ≤ 255 →
    (encodeFrame m).length = 4 + m.length + m.countP (fun b => decide (b = 0x7E ∨ b = 0x7D)) ∧
    (encodeFrame m).length = 4 + (stuffSeq m).length ∧
    4 ≤ (encodeFrame m).length ∧ (encodeFrame m).length ≤ 514 ∧ encodeFrame [] = [0x7E, 0x00, 0x00, 0x00] ∧
    (encodeFrame (List.replicate 255 0x7E)).length = 514

/-- 40_codec R100: no flag inside DATA; the LEN byte is `7E` exactly for 126 bytes, and a checksum byte can be `7E`. -/
def Obligations.StuffedDataHasNoFlag : Prop :=
  (∀ m : Message, (0x7E : Byte) ∉ stuffSeq m) ∧
  (∀ m : Message, m.length ≤ 255 → ((encodeFrame m)[1]? = some 0x7E ↔ m.length = 126)) ∧
  (checksum [0x7D]).1 = 0x7E ∧ (checksum (List.replicate 126 0x00)).1 = 0x7E ∧ (checksum [0x7C]).2 = 0x7E

/-- 40_codec R98: encoding then decoding gives the message back, valid, and leaves what follows. -/
def Obligations.DecodeFrameRoundTrip : Prop :=
  ∀ (m : Message) (r : List Byte), m.length ≤ 255 → decodeFrame (encodeFrame m ++ r) = some (m, true, r)

/-! ### Decoding -/

/-- Decoding the packet of a well-formed instruction gives the instruction, whatever its operands. How a packet carries
operands is the model's choice (log 16). -/
def Obligations.DecodeEncodeAgree : Prop := ∀ i : Instr, WellFormed i → decode (encode i) = .ok i

/-- A few words written out from the tables of 30_encoding R61, R66, R73, R76, R80 and R83; how a packet carries operands is
the model's choice (log 16). -/
def Obligations.DecodesSpecWords : Prop :=
  decode { fmt := .hostcmd, port := 2, code := [0x3], msg := [0x24, 0x00], nums := [] } = .ok (.send 2 [0x24, 0x00]) ∧
  decode { fmt := .hostcmd, port := 1, code := [0xA], msg := [], nums := [] } = .ok (.reservedA 1) ∧
  decode { fmt := .qport, port := 0, code := [0x3], msg := [], nums := [] } = .ok .take ∧
  decode { fmt := .wire, port := 0, code := [0x7E], msg := [], nums := [] } = .ok .flag ∧
  decode { fmt := .wire2, port := 0, code := [0x7D, 0x41], msg := [], nums := [] } = .ok (.escIllegal 0x41) ∧
  decode { fmt := .frame, port := 0, code := [0x7E, 0x01, 0x7D, 0x5D, 0x7E, 0x7F], msg := [], nums := [] } =
    .ok (.frame 0x01 [0x7D, 0x5D] 0x7E 0x7F) ∧
  decode { fmt := .type, port := 0, code := [0xC8], msg := [], nums := [0] } = .ok (.ackreq true 0x08) ∧
  decode { fmt := .txstep, port := 0, code := [0x3], msg := [], nums := [2] } = .ok .tEnd ∧
  decode { fmt := .rxstep, port := 0, code := [0x5], msg := [], nums := [0] } = .ok .rCs2 ∧
  decode { fmt := .hoststep, port := 1, code := [0x7], msg := [], nums := [] } = .ok (.insertRelease 1 .setClock)

/-- A packet with a queue code or a state code that is never issued stops the machine with the fault of that name
(30_encoding R80, R83; 93_implementation_defined U15, U16). That it is a fault is the model's choice (log 18). -/
def Obligations.UnissuedCodesFault : Prop :=
  ∀ (s : State) (split : Bool) (p : Packet) (b : Byte), s.fetch = .act split p → p.code = [b] →
    (p.fmt = .qport → 6 ≤ b.toNat % 8 → step s = .fault (.queuePortCode (b.toNat % 8))) ∧
    (p.fmt = .txstep → 5 ≤ b.toNat % 8 → step s = .fault (.stateCode (b.toNat % 8))) ∧
    (p.fmt = .rxstep → 10 ≤ b.toNat % 16 → step s = .fault (.stateCode (b.toNat % 16)))

/-! ### Reset, the step and what holds of every state -/

/-- 70_reset_and_hazards R206: the power-on state, with any configuration and any clock, and the steps enabled in it: the
issue steps of the host ports built and the steps of the wall clock, and no other. Every other instruction and every other
choice of the environment leaves the state (but the split bit of a choice, which is the model's own, log 11). -/
def Obligations.PowerOnState : Prop :=
  ∀ (c : Params) (now : Nat),
    let s := State.powerOn c now
    s.cfg = c ∧ s.conn = .disconnected ∧ s.streamOpen = false ∧ s.cancel = false ∧ s.q = [] ∧ s.gate = true ∧
    s.tx.st = .off ∧ s.rx.st = .off ∧ s.reg = [] ∧ s.now = now ∧ s.ev = [] ∧ s.wireOut = [] ∧
    s.host.length = c.hosts ∧ (∀ p ∈ s.host, p.cmd = none) ∧
    (∀ (i : Instr) (h : Nat), issuePort i = some h → h < c.hosts → ∃ t, exec i s = .next t ∧ t ≠ s) ∧
    (∀ ms : Nat, step (s.choosing (.clock ms)) = .next { s with now := now + ms }) ∧
    (∀ i : Instr, (∃ h, issuePort i = some h ∧ h < c.hosts) ∨ exec i s = .next s) ∧
    (∀ (d : Choice) (t : State), step (s.choosing d) = .next t →
      t = s ∨ (∃ ms, d = .clock ms) ∨
      ∃ split p i, d = .act split p ∧ decode p = .ok i ∧
        ((∃ h, issuePort i = some h ∧ h < c.hosts) ∨ t = { s with split := split }))

/-- The invariant holds at power-on of every legal configuration, and at the reset state (whose P_LMAX, P_HOSTS and clock
are the model's choice, log 4 and 6). -/
def Obligations.PowerOnMeetsInv : Prop :=
  (∀ (c : Params) (now : Nat), c.legal → (State.powerOn c now).Inv) ∧ State.reset.Inv

/-- The invariant is kept by every step, whatever the environment chooses. -/
def Obligations.StepKeepsInv : Prop := ∀ s t : State, s.Inv → step s = .next t → t.Inv

/-- A step takes up the environment's next choice and, where it names an instruction, runs that instruction in the state
with the choice taken up; where it is a step of the wall clock, the wire source or the wire sink, carries that
out, the source and the sink while the stream is open. How the next agent is chosen is the model's (log 1, 7, 8, 11). -/
def Obligations.StepRunsDecodedInstr : Prop :=
  (∀ (s : State) (c : Choice) (rest : List Choice), s.sched = c :: rest →
    s.fetch = c ∧ s.fetched = { s with sched := rest }) ∧
  (∀ s : State, s.sched = [] → s.fetch = Config.environment s.draws ∧ s.fetched = { s with draws := s.draws + 1 }) ∧
  (∀ (s : State) (split : Bool) (p : Packet) (i : Instr), s.fetch = .act split p → decode p = .ok i →
    step s = exec i { s.fetched with split := split }) ∧
  (∀ (s : State) (ms : Nat), s.fetch = .clock ms → step s = .next { s.fetched with now := s.now + ms }) ∧
  (∀ (s : State) (xs : List Symbol), s.fetch = .wire xs →
    step s = .next { s.fetched with wireIn := if s.streamOpen then s.wireIn ++ xs else s.wireIn }) ∧
  (∀ (s : State) (xs : List SinkAnswer), s.fetch = .sink xs →
    step s = .next { s.fetched with sinkAns := if s.streamOpen then s.sinkAns ++ xs else s.sinkAns }) ∧
  (∀ s : State, s.fetch = .wireLost → step s = .next { s.fetched with wireIn := [] }) ∧
  (∀ s : State, s.fetch = .sinkLost → step s = .next { s.fetched with sinkAns := [] })

/-- Every instruction answers a next state in every state: a step that is not enabled is a hold, never a fault (00_scope
R7; log 2), and every failure is an event (60_exceptions R186). -/
def Obligations.EveryInstructionAnswersNext : Prop := ∀ (i : Instr) (s : State), ∃ t, exec i s = .next t

/-- No instruction writes the clock, the configuration or the schedule (10_state R36, R42) or takes anything from the event
log, the notifications or the wire record: they only grow, the wire record by T_EMIT's byte alone (R37, R38). -/
def Obligations.InstructionsOnlyAppend : Prop :=
  ∀ (i : Instr) (s t : State), exec i s = .next t →
    t.now = s.now ∧ t.cfg = s.cfg ∧ t.sched = s.sched ∧ t.host.length = s.host.length ∧
    s.ev <+: t.ev ∧ s.notes <+: t.notes ∧
    (t.wireOut = s.wireOut ∨ (i = .tEmit ∧ ∃ b, s.tx.frame = b :: t.tx.frame ∧ t.wireOut = s.wireOut ++ [b]))

/-- Within one agent at most one step is enabled, so its priorities never choose between two (60_exceptions R196). -/
def Obligations.OneStepPerAgent : Prop :=
  ∀ (s : State) (i j : Instr),
    ((i ∈ txSteps ∧ j ∈ txSteps) ∨ (i ∈ rxSteps ∧ j ∈ rxSteps)) →
      exec i s ≠ .next s → exec j s ≠ .next s → i = j

/-- The values a register holds where the spec gives it none are never read: two states that differ only in them step to
states that differ only in them (70_reset_and_hazards R209, 10_state R45; log 5). -/
def Obligations.UnspecifiedNeverRead : Prop :=
  ∀ s : State, mapNext State.erase (step s) = mapNext State.erase (step s.erase)

/-- The connection goes round DISCONNECTED, CONNECTED, CLOSING by CONNECT, DISCONNECT and its completion only, and the
stream is closed by DISCONNECT only, so never twice (10_state R21, R22; 46_host_ops R170, R185). -/
def Obligations.ConnectionLifecycle : Prop :=
  ∀ (i : Instr) (s t : State), exec i s = .next t →
    (t.conn = s.conn ∨
      (∃ h, i = .connect h ∧ s.conn = .disconnected ∧ t.conn = .connected) ∨
      (∃ h, i = .disconnect h ∧ s.conn = .connected ∧ t.conn = .closing) ∨
      (i = .disconnectComplete ∧ s.conn = .closing ∧ s.tx.st = .stopped ∧ s.rx.st = .stopped ∧ t.conn = .disconnected)) ∧
    (s.streamOpen = true → t.streamOpen = false → s.conn = .connected ∧ t.conn = .closing)

/-- Who writes the gate: set by R_GATE, by the end of a bare acknowledgment and by CONNECT; cleared only by the
Transmitter, at the point P_GATE_CONSUME names (42_gate R114, R119). -/
def Obligations.GateWriters : Prop :=
  ∀ (i : Instr) (s t : State), exec i s = .next t →
    (s.gate = false → t.gate = true → i = .rGate ∨ (i = .tEnd ∧ s.tx.isAck = true) ∨ ∃ h, i = .connect h) ∧
    (s.gate = true → t.gate = false →
      (i = .tReady ∧ s.cfg.gateConsume = .atWaitExit) ∨
      (s.cfg.gateConsume = .atTake ∧ s.tx.st = .take ∧
        (i = .tTake ∨ i = .take ∨ ∃ a r, i = .typeBareAck a r)))

/-- How the queue changes: by a tail insert, a head insert of the acknowledgment, a TAKE of the head, or its emptying at
the completion of a disconnect; nothing else drops an entry (41_queue R102). -/
def Obligations.QueueChangesOnly : Prop :=
  ∀ (i : Instr) (s t : State), s.Inv → exec i s = .next t →
    t.q = s.q ∨ (∃ m, t.q = s.q ++ [m] ∧ s.q.length < s.cfg.qcap) ∨
    (t.q = [0x1D] :: s.q ∧ s.q.length < s.cfg.qcap ∧ s.rx.st = .ack) ∨
    (∃ m, s.q = m :: t.q ∧ s.tx.st = .take ∧ t.tx.st = .send ∧ t.tx.frame = encodeFrame m) ∨
    (t.q = [] ∧ i = .disconnectComplete)

/-! ### Host commands -/

/-- 46_host_ops R168, R169. -/
def Obligations.ConnectStartsConnection : Prop :=
  ∀ (s : State) (h : Nat) (p : HostPort), s.idleAt h p →
    (s.conn = .disconnected →
      exec (.connect h) s =
        .next (State.answered
          { s with
            conn := .connected, streamOpen := true, cancel := false, q := [], gate := true, reg := []
            tx := { s.tx with st := .wait, deadline := s.now + s.cfg.gateTimeoutMs }
            rx := { s.rx with st := .hunt } } h p .ok .none none)) ∧
    (s.conn ≠ .disconnected →
      exec (.connect h) s =
        .next ((s.answered h p .refused .alreadyConnected none).logged [.cmdRefused h 0x1 .alreadyConnected]))

/-- 46_host_ops R170, R172: the command in each connection state; no other step closes the stream, and a port that holds
DISCONNECT is held by every step but the completion. -/
def Obligations.DisconnectCommand : Prop :=
  (∀ (s : State) (h : Nat) (p : HostPort), s.idleAt h p →
    (s.conn = .connected →
      exec (.disconnect h) s =
        .next (State.executing { s with conn := .closing, cancel := true, streamOpen := false } h p .disconnect)) ∧
    (s.conn = .disconnected → exec (.disconnect h) s = .next (s.answered h p .ok .none none)) ∧
    (s.conn = .closing → exec (.disconnect h) s = .next (s.executing h p .disconnect))) ∧
  (∀ (i : Instr) (s t : State), exec i s = .next t →
    (s.streamOpen = true → t.streamOpen = false → s.conn = .connected ∧ ∃ h, i = .disconnect h) ∧
    (∀ (h : Nat) (p : HostPort), s.host[h]? = some p → p.cmd = some .disconnect → i ≠ .disconnectComplete →
      t.host[h]? = some p))

/-- 46_host_ops R171; until both loops have stopped the completion holds. -/
def Obligations.DisconnectCompletes : Prop :=
  ∀ s : State,
    (s.conn = .closing → s.tx.st = .stopped → s.rx.st = .stopped →
      exec .disconnectComplete s =
        .next { s with
          q := [], reg := [], conn := .disconnected
          tx := { s.tx with st := .off }, rx := { s.rx with st := .off }
          host := s.host.map fun p =>
            if p.cmd = some .disconnect then
              { cmd := none, deadline := p.deadline
                resp := p.resp ++ [{ status := .ok, reason := .none, value := none }] }
            else p }) ∧
    (¬ (s.conn = .closing ∧ s.tx.st = .stopped ∧ s.rx.st = .stopped) → exec .disconnectComplete s = .next s)

/-- 46_host_ops R173, R174: the refusals, the insert in the issue step, and the command held for its insert step; that
both ways of issuing are admitted is the model's split bit (log 11). -/
def Obligations.SendQueuesOrHolds : Prop :=
  ∀ (s : State) (h : Nat) (p : HostPort) (msg : Message), s.idleAt h p →
    (s.conn ≠ .connected →
      exec (.send h msg) s =
        .next ((s.answered h p .refused .notConnected none).logged [.cmdRefused h 0x3 .notConnected])) ∧
    (s.conn = .connected → 255 < msg.length →
      exec (.send h msg) s =
        .next ((s.answered h p .refused .msgTooLong none).logged [.cmdRefused h 0x3 .msgTooLong])) ∧
    (s.conn = .connected → msg.length ≤ 255 →
      (s.q.length < s.cfg.qcap → s.split = false →
        exec (.send h msg) s = .next (State.answered { s with q := s.q ++ [msg] } h p .ok .none none)) ∧
      (¬ (s.q.length < s.cfg.qcap ∧ s.split = false) →
        exec (.send h msg) s = .next (s.executing h p (.send msg))))

/-- 41_queue R103: APPEND of the message a port is held with, for SEND and for SET_CLOCK; a full queue holds it. -/
def Obligations.AppendInsertsHeldMessage : Prop :=
  ∀ (s : State) (h : Nat) (p : HostPort) (m : Message),
    s.host[h]? = some p → (p.cmd = some (.send m) ∨ p.cmd = some (.setClock m)) →
    (s.conn = .connected → s.q.length < s.cfg.qcap →
      exec (.append h m) s = .next (State.answered { s with q := s.q ++ [m] } h p .ok .none none)) ∧
    (s.cfg.qcap ≤ s.q.length → exec (.append h m) s = .next s)

/-- 46_host_ops R176: the issue step of SEND_TIMED sets the deadline, then inserts or holds (the model's split bit, log 11). -/
def Obligations.SendTimedIssues : Prop :=
  ∀ (s : State) (h tMs : Nat) (p : HostPort) (msg : Message), s.idleAt h p →
    (s.conn ≠ .connected →
      exec (.sendTimed h msg tMs) s =
        .next ((s.answered h p .refused .notConnected none).logged [.cmdRefused h 0x4 .notConnected])) ∧
    (s.conn = .connected → 255 < msg.length →
      exec (.sendTimed h msg tMs) s =
        .next ((s.answered h p .refused .msgTooLong none).logged [.cmdRefused h 0x4 .msgTooLong])) ∧
    (s.conn = .connected → msg.length ≤ 255 →
      (s.q.length < s.cfg.qcap → s.split = false →
        exec (.sendTimed h msg tMs) s =
          .next (State.answered { s with q := s.q ++ [msg] } h { p with deadline := s.now + tMs } .ok .none none)) ∧
      (¬ (s.q.length < s.cfg.qcap ∧ s.split = false) →
        exec (.sendTimed h msg tMs) s =
          .next (s.executing h { p with deadline := s.now + tMs } (.sendTimed msg tMs))))

/-- 41_queue R108: the insert step, the timeout step of a full queue, and the hold before the deadline. -/
def Obligations.AppendTimedInsertsOrTimesOut : Prop :=
  ∀ (s : State) (h tMs : Nat) (p : HostPort) (m : Message),
    s.host[h]? = some p → p.cmd = some (.sendTimed m tMs) → s.conn = .connected →
    (s.q.length < s.cfg.qcap →
      exec (.appendTimed h m tMs) s = .next (State.answered { s with q := s.q ++ [m] } h p .ok .none none)) ∧
    (s.q.length = s.cfg.qcap → p.deadline ≤ s.now →
      exec (.appendTimed h m tMs) s =
        .next ((s.answered h p .timeout .none none).logged [.deliveryFailure h 0x4])) ∧
    (s.q.length = s.cfg.qcap → s.now < p.deadline → exec (.appendTimed h m tMs) s = .next s)

/-- 46_host_ops R177, R178: the field ranges, and the message that is then sent as by SEND. Where a bad field meets a
block that is not connected the reason is one of the two, the model's free value (log 12); the split bit is log 11. -/
def Obligations.SetClockQueuesMessage : Prop :=
  ∀ (s : State) (h year month day hour minute dow : Nat) (p : HostPort), s.idleAt h p →
    let inRange := 2000 ≤ year ∧ year ≤ 2255 ∧ 1 ≤ month ∧ month ≤ 12 ∧ 1 ≤ day ∧ day ≤ 31 ∧ hour ≤ 23 ∧ minute ≤ 59 ∧
      1 ≤ dow ∧ dow ≤ 7
    let msg : Message := [0x3B, BitVec.ofNat 8 (year - 2000), BitVec.ofNat 8 month, BitVec.ofNat 8 day,
      BitVec.ofNat 8 hour, BitVec.ofNat 8 minute, BitVec.ofNat 8 dow]
    let i := Instr.setClock h year month day hour minute dow
    (inRange → s.conn ≠ .connected →
      exec i s = .next ((s.answered h p .refused .notConnected none).logged [.cmdRefused h 0x7 .notConnected])) ∧
    (inRange → s.conn = .connected → s.q.length < s.cfg.qcap → s.split = false →
      exec i s = .next (State.answered { s with q := s.q ++ [msg] } h p .ok .none none)) ∧
    (inRange → s.conn = .connected → ¬ (s.q.length < s.cfg.qcap ∧ s.split = false) →
      exec i s = .next (s.executing h p (.setClock msg))) ∧
    (¬ inRange → s.conn = .connected →
      exec i s = .next ((s.answered h p .refused .badField none).logged [.cmdRefused h 0x7 .badField])) ∧
    (¬ inRange → s.conn ≠ .connected →
      ∃ r, (r = Reason.badField ∨ r = Reason.notConnected) ∧
        exec i s =
          .next (State.logged (State.answered { s with draws := s.draws + 1 } h p .refused r none)
            [.cmdRefused h 0x7 r]))

/-- 46_host_ops R175: the release of a held insert, for each of the three commands; while connected it holds. -/
def Obligations.InsertReleasedByDisconnect : Prop :=
  ∀ (s : State) (h tMs : Nat) (p : HostPort) (m : Message) (op : InsertOp),
    s.host[h]? = some p →
    ((op = .send ∧ p.cmd = some (.send m)) ∨ (op = .sendTimed ∧ p.cmd = some (.sendTimed m tMs)) ∨
      (op = .setClock ∧ p.cmd = some (.setClock m))) →
    (s.conn ≠ .connected →
      exec (.insertRelease h op) s =
        .next ((s.answered h p .refused .notConnected none).logged
          [.deliveryFailure h (match op with | .send => 0x3 | .sendTimed => 0x4 | .setClock => 0x7)])) ∧
    (s.conn = .connected → exec (.insertRelease h op) s = .next s)

/-- 45_dispatch R158, R159. -/
def Obligations.SubscribeUnsubscribe : Prop :=
  ∀ (s : State) (h : Nat) (p : HostPort) (lid : LID), s.idleAt h p →
    (s.conn ≠ .connected →
      exec (.subscribe h lid) s =
        .next ((s.answered h p .refused .notConnected none).logged [.cmdRefused h 0x5 .notConnected])) ∧
    (s.conn = .connected → lid ∈ s.reg → exec (.subscribe h lid) s = .next (s.answered h p .ok .none none)) ∧
    (s.conn = .connected → lid ∉ s.reg → s.reg.length = s.cfg.lmax →
      exec (.subscribe h lid) s =
        .next ((s.answered h p .refused .regFull none).logged [.cmdRefused h 0x5 .regFull])) ∧
    (s.conn = .connected → lid ∉ s.reg → s.reg.length ≠ s.cfg.lmax →
      exec (.subscribe h lid) s = .next (State.answered { s with reg := s.reg ++ [lid] } h p .ok .none none)) ∧
    exec (.unsubscribe h lid) s =
      .next (State.answered { s with reg := s.reg.filter fun x => decide (x ≠ lid) } h p .ok .none none)

/-- 41_queue R106, R107; 46_host_ops R180, R181. -/
def Obligations.QueriesAnswer : Prop :=
  ∀ (s : State) (h : Nat) (p : HostPort), s.idleAt h p →
    (∀ i ∈ [Instr.querySize h, Instr.size h],
      exec i s = .next (s.answered h p .ok .none (some (.size s.q.length)))) ∧
    (∀ i ∈ [Instr.queryFull h, Instr.isFull h],
      exec i s = .next (s.answered h p .ok .none (some (.full (decide (s.q.length = s.cfg.qcap))))))

/-- 46_host_ops R182. -/
def Obligations.ReservedOpsRefused : Prop :=
  ∀ (s : State) (h : Nat) (p : HostPort), s.idleAt h p →
    ∀ io ∈ [(Instr.reserved0 h, (0x0 : BitVec 4)), (.reservedA h, 0xA), (.reservedB h, 0xB), (.reservedC h, 0xC),
        (.reservedD h, 0xD), (.reservedE h, 0xE), (.reservedF h, 0xF)],
      exec io.1 s =
        .next ((s.answered h p .refused .reservedOp none).logged [.cmdRefused h io.2 .reservedOp])

/-- A port that is busy or does not exist takes no command (46_host_ops R167); that it holds is the model's choice (log 21). -/
def Obligations.BusyPortHolds : Prop :=
  ∀ (s : State) (h : Nat), (∀ p, s.host[h]? = some p → p.cmd ≠ none) →
    ∀ (msg : Message) (tMs lid year month day hour minute dow : Nat),
      ∀ i ∈ [Instr.connect h, .disconnect h, .send h msg, .sendTimed h msg tMs, .subscribe h lid, .unsubscribe h lid,
          .setClock h year month day hour minute dow, .querySize h, .queryFull h, .size h, .isFull h, .reserved0 h,
          .reservedA h, .reservedB h, .reservedC h, .reservedD h, .reservedE h, .reservedF h],
        exec i s = .next s

/-! ### Transmitter -/

/-- 43_transmitter R123, R124: the two exits of the gate wait. -/
def Obligations.GateWaitExits : Prop :=
  ∀ s : State, s.tx.st = .wait → s.cancel = false →
    (s.gate = true →
      exec .tReady s =
        .next { s with
          gate := (match s.cfg.gateConsume with | .atWaitExit => false | .atTake => true)
          tx := { s.tx with st := .take } }) ∧
    (s.gate = false → s.tx.deadline ≤ s.now →
      exec .tTimeout s = .next { s with ev := s.ev ++ [.gateTimeout], tx := { s.tx with st := .take } }) ∧
    (s.gate = false → s.now < s.tx.deadline → exec .tReady s = .next s ∧ exec .tTimeout s = .next s)

/-- 43_transmitter R125: cancellation in both wait states, whatever the gate, the deadline and the queue; it is not
observed while a frame is sent. -/
def Obligations.CancelStopsTransmitter : Prop :=
  ∀ s : State,
    ((s.tx.st = .wait ∨ s.tx.st = .take) → s.cancel = true →
      exec .tCancel s =
        .next { s with ev := s.ev ++ [.txStopped .cancelled], tx := { s.tx with st := .stopped } } ∧
      exec .tReady s = .next s ∧ exec .tTimeout s = .next s ∧ exec .tTake s = .next s) ∧
    (s.tx.st = .send ∨ s.cancel = false → exec .tCancel s = .next s)

/-- 43_transmitter R126, R131: the head is taken and framed, and marked if it is a bare acknowledgment; an empty queue
holds. -/
def Obligations.TakeFramesHead : Prop :=
  (∀ (s : State) (m : Message) (rest : List Message),
    s.tx.st = .take → s.cancel = false → s.q = m :: rest →
      exec .tTake s =
        .next { s with
          q := rest
          gate := (match s.cfg.gateConsume with | .atWaitExit => s.gate | .atTake => false)
          tx := { s.tx with
            st := .send
            frame := 0x7E :: BitVec.ofNat 8 m.length :: (stuffSeq m ++ [(checksum m).1, (checksum m).2])
            isAck := isBareAck m } }) ∧
  (∀ s : State, s.q = [] → exec .tTake s = .next s) ∧
  (∀ m : Message, isBareAck m = true ↔ ∃ b t, m = b :: t ∧ b &&& 0x3F = 0x1D)

/-- 43_transmitter R127. -/
def Obligations.EmitWritesOneByte : Prop :=
  ∀ (s : State) (b : Byte) (rest : List Byte) (answers : List SinkAnswer),
    s.tx.st = .send → s.tx.frame = b :: rest → s.streamOpen = true →
    (s.sinkAns = .accept :: answers →
      exec .tEmit s =
        .next { s with wireOut := s.wireOut ++ [b], tx := { s.tx with frame := rest }, sinkAns := answers }) ∧
    (s.sinkAns = [] → exec .tEmit s = .next s)

/-- 43_transmitter R128: a closed stream, or the sink's error; the rest of the frame is never written. -/
def Obligations.WriteErrorStopsTransmitter : Prop :=
  ∀ (s : State) (b : Byte) (rest : List Byte), s.tx.st = .send → s.tx.frame = b :: rest →
    (s.streamOpen = false →
      exec .tWrerr s =
        .next { s with ev := s.ev ++ [.txStopped .writeError], tx := { s.tx with st := .stopped } }) ∧
    (∀ answers, s.streamOpen = true → s.sinkAns = .error :: answers →
      exec .tWrerr s =
        .next { s with
          ev := s.ev ++ [.txStopped .writeError], tx := { s.tx with st := .stopped }, sinkAns := answers })

/-- 43_transmitter R129, whatever the cancellation. -/
def Obligations.EndOfFrame : Prop :=
  ∀ s : State, s.tx.st = .send → s.tx.frame = [] →
    exec .tEnd s =
      .next { s with
        gate := s.tx.isAck || s.gate
        tx := { s.tx with st := .wait, deadline := s.now + s.cfg.gateTimeoutMs } }

/-- A Transmitter that waits, is not cancelled, has a ready gate or a reached deadline, a message and a sink that accepts,
writes the whole frame of the head message by its own steps, in no time, and waits again (43_transmitter R134, for the
schedule in which no other agent steps between, log 22). -/
def Obligations.TransmitterWritesWholeFrame : Prop :=
  ∀ (s : State) (m : Message) (rest : List Message) (answers : List SinkAnswer),
    s.tx.st = .wait → s.cancel = false → s.streamOpen = true → s.q = m :: rest →
    (s.gate = true ∨ s.tx.deadline ≤ s.now) →
    s.sinkAns = List.replicate (encodeFrame m).length .accept ++ answers →
    ∃ t, runAll (sendSteps s.gate m) s = .next t ∧
      t.wireOut = s.wireOut ++ encodeFrame m ∧ t.q = rest ∧ t.sinkAns = answers ∧ t.now = s.now ∧
      t.tx.st = .wait ∧ t.tx.frame = [] ∧ t.tx.deadline = s.now + s.cfg.gateTimeoutMs ∧
      t.gate = isBareAck m ∧
      t.ev = (if s.gate then s.ev else s.ev ++ [.gateTimeout]) ∧
      t.rx = s.rx ∧ t.reg = s.reg ∧ t.host = s.host ∧ t.conn = s.conn ∧ t.wireIn = s.wireIn

/-- What stands on the wire since a connection began is whole frames of the messages taken, in order, and a prefix of one
more; every step but a CONNECT keeps that, and a CONNECT begins anew (43_transmitter R133). -/
def Obligations.WireShapeKept : Prop :=
  ∀ s t : State, step s = .next t →
    (∀ base, ¬ (s.conn = .disconnected ∧ t.conn = .connected) → s.wireShape base → t.wireShape base) ∧
    (s.conn = .disconnected → t.conn = .connected → t.wireShape s.wireOut)

/-! ### Receiver -/

/-- 44_receiver R137, R138. -/
def Obligations.HuntForFlag : Prop :=
  ∀ (s : State) (b : Byte) (rest : List Symbol),
    s.rx.st = .hunt → s.streamOpen = true → s.wireIn = .byte b :: rest →
    (b ≠ 0x7E → exec .rHuntSkip s = .next { s with wireIn := rest } ∧ exec .rHuntFlag s = .next s) ∧
    (b = 0x7E →
      exec .rHuntFlag s = .next { s with wireIn := rest, rx := { s.rx with st := .len } } ∧
      exec .rHuntSkip s = .next s)

/-- 44_receiver R139. -/
def Obligations.LengthByteStartsFrame : Prop :=
  ∀ (s : State) (b : Byte) (rest : List Symbol),
    s.rx.st = .len → s.streamOpen = true → s.wireIn = .byte b :: rest →
    exec .rLen s =
      .next { s with
        wireIn := rest
        rx := { s.rx with
          len := b, buf := [], esc := false, serr := false, s1 := b, s2 := b
          st := (if b = 0 then .cs1 else .data) } }

/-- 44_receiver R140 to R144: the four steps on a data byte, each with the logical byte it accepts. -/
def Obligations.DataBytes : Prop :=
  ∀ (s : State) (b : Byte) (rest : List Symbol),
    s.rx.st = .data → s.streamOpen = true → s.wireIn = .byte b :: rest →
    let accepted (v : Byte) (serr : Bool) : State :=
      { s with
        wireIn := rest
        rx := { s.rx with
          esc := false, serr := serr, buf := s.rx.buf ++ [v]
          s1 := BitVec.ofNat 8 ((s.rx.s1.toNat + v.toNat) % 255)
          s2 := BitVec.ofNat 8 ((s.rx.s2.toNat + (s.rx.s1.toNat + v.toNat) % 255) % 255)
          st := (if s.rx.buf.length + 1 = s.rx.len.toNat then .cs1 else .data) } }
    (s.rx.esc = false → b ≠ 0x7D → exec .rDataPlain s = .next (accepted b s.rx.serr)) ∧
    (s.rx.esc = false → b = 0x7D →
      exec .rDataEsc s = .next { s with wireIn := rest, rx := { s.rx with esc := true } }) ∧
    (s.rx.esc = true → b = 0x5E → exec .rEscOk s = .next (accepted 0x7E s.rx.serr)) ∧
    (s.rx.esc = true → b = 0x5D → exec .rEscOk s = .next (accepted 0x7D s.rx.serr)) ∧
    (s.rx.esc = true → b ≠ 0x5E → b ≠ 0x5D → exec .rEscBad s = .next (accepted (b ^^^ 0x20) true))

/-- 44_receiver R145, R146: the checksum bytes, the validity flag and the frame's events in their order. -/
def Obligations.ChecksumBytes : Prop :=
  (∀ (s : State) (b : Byte) (rest : List Symbol),
    s.rx.st = .cs1 → s.streamOpen = true → s.wireIn = .byte b :: rest →
    exec .rCs1 s = .next { s with wireIn := rest, rx := { s.rx with c1 := b, st := .cs2 } }) ∧
  (∀ (s : State) (b : Byte) (rest : List Symbol),
    s.rx.st = .cs2 → s.streamOpen = true → s.wireIn = .byte b :: rest →
    let sums : Bool := decide (s.rx.c1 = s.rx.s1 ∧ b = s.rx.s2)
    let free : Bool := (match s.rx.buf with | [] => false | c :: _ => decide (c &&& 0x3F = 0x05))
    exec .rCs2 s =
      .next { s with
        wireIn := rest
        ev := s.ev ++
          (match s.rx.serr, sums, free with
            | true, _, _ => [.stuffError s.rx.len]
            | false, true, _ => []
            | false, false, false => [.cksumMismatch s.rx.len s.rx.c1 b s.rx.s1 s.rx.s2]
            | false, false, true => [.cksumExempt s.rx.len s.rx.c1 b s.rx.s1 s.rx.s2]) ++
          (if s.rx.len = 0 then [.runt] else [])
        rx := { s.rx with c2 := b, ok := !s.rx.serr && (sums || free), st := .ack } })

/-- 44_receiver R147: the acknowledgment goes to the head of the queue, whatever the validity of the frame and the
cancellation. -/
def Obligations.AcknowledgmentInserted : Prop :=
  ∀ (s : State) (b : Byte) (t : Message),
    s.rx.st = .ack → s.rx.buf = b :: t → 1 ≤ s.rx.len.toNat → b.getLsbD 7 = true → s.q.length < s.cfg.qcap →
    exec .rAckInsert s = .next { s with q := [0x1D] :: s.q, rx := { s.rx with st := .gate } }

/-- 44_receiver R148, R149: a full queue holds the Receiver, which then has no step, and a cancelled one aborts it. -/
def Obligations.AcknowledgmentHeldOrAborted : Prop :=
  ∀ (s : State) (b : Byte) (t : Message),
    s.rx.st = .ack → s.rx.buf = b :: t → 1 ≤ s.rx.len.toNat → b.getLsbD 7 = true → s.q.length = s.cfg.qcap →
    (s.cancel = false → ∀ i ∈ rxSteps ++ [.rAckHold], exec i s = .next s) ∧
    (s.cancel = true →
      exec .rAckAbort s =
        .next { s with
          ev := s.ev ++ [.ackDropped, .rxStopped .closed], rx := { s.rx with st := .stopped } })

/-- 44_receiver R150. -/
def Obligations.NoAcknowledgmentAsked : Prop :=
  ∀ s : State, s.rx.st = .ack →
    (s.rx.len.toNat = 0 ∨ ∃ b t, s.rx.buf = b :: t ∧ b.getLsbD 7 = false) →
    exec .rAckNone s = .next { s with rx := { s.rx with st := .gate } }

/-- 44_receiver R151, 45_dispatch R160: the gate is set by every completely read frame; a valid one with a type byte starts
a dispatch to a snapshot of the registry. -/
def Obligations.GateSetAndDispatchStarts : Prop :=
  ∀ s : State, s.rx.st = .gate →
    (s.rx.ok = true → 1 ≤ s.rx.len.toNat →
      exec .rGate s =
        .next { s with
          gate := true
          rx := { s.rx with snap := s.reg, idx := 0, st := (if s.reg = [] then .hunt else .dispatch) } }) ∧
    (¬ (s.rx.ok = true ∧ 1 ≤ s.rx.len.toNat) →
      exec .rGate s = .next { s with gate := true, rx := { s.rx with st := .hunt } })

/-- 30_encoding R81, 45_dispatch R165: the listener that is next in the snapshot, and no other, takes the type code and the
whole payload and answers. That the answer is a step of its own is the model's choice (log 9). -/
def Obligations.ListenerNotified : Prop :=
  ∀ (s : State) (b : Byte) (t : Message) (lid other : LID) (ans : ListenerAnswer),
    s.rx.st = .dispatch → s.rx.buf = b :: t → s.rx.snap[s.rx.idx]? = some lid → s.lisAns = none →
    exec (.notify lid ans) s =
      .next { s with
        notes := s.notes ++ [({ lid := lid, type6 := b &&& 0x3F, payload := b :: t }, ans)]
        lisAns := some ans } ∧
    (other ≠ lid → exec (.notify other ans) s = .next s)

/-- 45_dispatch R161 to R163: the delivery ends with the listener's answer, which is used up (the model's choice, log 9); a
fault is logged and does not stop it. -/
def Obligations.DeliveryAdvances : Prop :=
  ∀ (s : State) (b : Byte) (t : Message) (lid : LID),
    s.rx.st = .dispatch → s.rx.buf = b :: t → s.rx.snap[s.rx.idx]? = some lid →
    let next : RxRegs LID :=
      { s.rx with
        idx := s.rx.idx + 1
        st := (if s.rx.idx + 1 = s.rx.snap.length then .hunt else .dispatch) }
    (s.lisAns = some .accept → exec .rDeliverOk s = .next { s with rx := next, lisAns := none }) ∧
    (s.lisAns = some .fault →
      exec .rDeliverFault s =
        .next { s with ev := s.ev ++ [.listenerFault lid (b &&& 0x3F)], rx := next, lisAns := none }) ∧
    (s.lisAns = none → exec .rDeliverOk s = .next s ∧ exec .rDeliverFault s = .next s)

/-- One dispatch, with no step of another agent between: every listener of the snapshot is offered the notification exactly
once, in order, whatever the others answer (45_dispatch R166, for that schedule, log 22; the listener's own step is the
model's choice, log 9). -/
def Obligations.DispatchReachesEveryListener : Prop :=
  ∀ (s : State) (b : Byte) (t : Message) (answers : List (LID × ListenerAnswer)),
    s.rx.st = .dispatch → s.rx.buf = b :: t → s.rx.idx = 0 → s.lisAns = none →
    answers ≠ [] → s.rx.snap = answers.map Prod.fst →
    ∃ u, runAll (deliverSteps answers) s = .next u ∧
      u.notes = s.notes ++ answers.map (fun a =>
        ({ lid := a.1, type6 := b &&& 0x3F, payload := b :: t }, a.2)) ∧
      u.ev = s.ev ++ (answers.filter fun a => decide (a.2 = .fault)).map
        (fun a => .listenerFault a.1 (b &&& 0x3F)) ∧
      u.rx.st = .hunt ∧ u.lisAns = none ∧ u.q = s.q ∧ u.gate = s.gate ∧ u.reg = s.reg ∧ u.wireIn = s.wireIn

/-- 44_receiver R153: CLOSED or a read error in a reading state. That a closed stream's CLOSED leaves the source's symbols
as they are is the model's choice (log 7). -/
def Obligations.ReceiverCloses : Prop :=
  ∀ s : State, s.rx.st ∈ [RxSt.hunt, .len, .data, .cs1, .cs2] →
    let cut : List (Event LID) :=
      (match s.rx.st with
        | .len => [.rxPartial 2]
        | .data => [.rxPartial 3]
        | .cs1 => [.rxPartial 4]
        | .cs2 => [.rxPartial 5]
        | _ => [])
    (s.streamOpen = false →
      exec .rClose s =
        .next { s with ev := s.ev ++ cut ++ [.rxStopped .closed], rx := { s.rx with st := .stopped } }) ∧
    (∀ rest, s.streamOpen = true → s.wireIn = .closed :: rest →
      exec .rClose s =
        .next { s with
          ev := s.ev ++ cut ++ [.rxStopped .closed], rx := { s.rx with st := .stopped }, wireIn := rest }) ∧
    (∀ rest, s.streamOpen = true → s.wireIn = .rdErr :: rest →
      exec .rClose s =
        .next { s with
          ev := s.ev ++ cut ++ [.rxStopped .readError], rx := { s.rx with st := .stopped }, wireIn := rest })

/-- The Receiver computes `decodeFrame` in an uninterrupted run: all the bytes ready at the start, and no step of another
agent between its own. Offered bytes that hold a frame, it reaches RX_ACK with the payload and validity of the reference
decoder and leaves the rest; offered the frame of a message, with that message. 44_receiver R156 says so of any
interleaving; this is the schedule `receive` (log 22). -/
def Obligations.ReceiverComputesDecodeFrame : Prop :=
  (∀ (s : State) (w rest : List Byte) (m : Message) (ok : Bool) (tail : List Symbol),
    s.rx.st = .hunt → s.streamOpen = true → s.wireIn = w.map .byte ++ tail →
    decodeFrame w = some (m, ok, rest) →
    let t := receive (w.length - rest.length) s
    t.rx.st = .ack ∧ t.rx.buf = m ∧ t.rx.ok = ok ∧ t.rx.len.toNat = m.length ∧
    t.wireIn = rest.map .byte ++ tail ∧ t.q = s.q ∧ t.gate = s.gate ∧ t.tx = s.tx ∧ t.reg = s.reg ∧
    t.wireOut = s.wireOut ∧ t.host = s.host ∧ t.notes = s.notes) ∧
  (∀ (s : State) (m : Message) (tail : List Symbol),
    s.rx.st = .hunt → s.streamOpen = true → m.length ≤ 255 → s.wireIn = (encodeFrame m).map .byte ++ tail →
    let t := receive (encodeFrame m).length s
    t.rx.st = .ack ∧ t.rx.buf = m ∧ t.rx.ok = true ∧ t.wireIn = tail)

/-! ### The rows that name a step of another agent's, the wire codes and the storage of the queue -/

/-- The queue rows TAKE and PREPEND and the type rows are the steps in which their agent issues or interprets them: with the
enabled step they have its effect, and they hold where it holds. That these rows are those steps is the model's reading of
30_encoding R80 and of the opcode table (log 13, 15). -/
def Obligations.RowsOfOneStep : Prop :=
  (∀ (s : State) (m : Message) (rest : List Message), s.tx.st = .take → s.cancel = false → s.q = m :: rest →
    ∃ t, exec .tTake s = .next t ∧ exec .take s = .next t ∧
      t.tx.st = .send ∧ t.tx.frame = encodeFrame m ∧ t.q = rest ∧
      ∀ a r u, m = typeByte a r bareAckType :: u → exec (.typeBareAck a r) s = .next t ∧ t.tx.isAck = true) ∧
  (∀ (s : State) (a r : Bool), s.q = [] → exec .take s = .next s ∧ exec (.typeBareAck a r) s = .next s) ∧
  (∀ (s : State) (r : Bool) (y : BitVec 6) (u : Message),
    s.rx.st = .ack → s.rx.buf = typeByte true r y :: u → 1 ≤ s.rx.len.toNat →
    (s.q.length < s.cfg.qcap →
      ∃ t, exec .rAckInsert s = .next t ∧ exec (.prepend [0x1D]) s = .next t ∧ exec (.ackreq r y) s = .next t ∧
        t.q = [0x1D] :: s.q ∧ t.rx.st = .gate) ∧
    (s.q.length = s.cfg.qcap → s.cancel = false →
      exec (.prepend [0x1D]) s = .next s ∧ exec (.ackreq r y) s = .next s) ∧
    (s.q.length = s.cfg.qcap → s.cancel = true →
      ∃ t, exec .rAckAbort s = .next t ∧ exec (.ackreq r y) s = .next t ∧ t.rx.st = .stopped)) ∧
  (∀ (s : State) (b : Byte) (rest : List Symbol) (a r : Bool) (u : Message),
    s.rx.st = .cs2 → s.streamOpen = true → s.wireIn = .byte b :: rest → s.rx.buf = typeByte a r exemptType :: u →
    ∃ t, exec .rCs2 s = .next t ∧ exec (.typeExempt a r) s = .next t ∧ t.rx.st = .ack ∧ t.rx.ok = !s.rx.serr)

/-- The wire rows: while the stream is open the wire source makes exactly these bytes available next, in wire order
(30_encoding R61, R73, R74); while it is closed the source has no step (44_receiver R136, 70_reset R206). That these rows are
steps of the wire source is the model's choice (log 14). -/
def Obligations.WireCodesSupplied : Prop :=
  ∀ (s : State) (x len c1 c2 : Byte) (data : List Byte),
    let supplied (bs : List Byte) : Result :=
      .next { s with wireIn := if s.streamOpen then s.wireIn ++ bs.map .byte else s.wireIn }
    exec .flag s = supplied [0x7E] ∧ exec .escape s = supplied [0x7D] ∧
    exec .esc7E s = supplied [0x7D, 0x5E] ∧ exec .esc7D s = supplied [0x7D, 0x5D] ∧
    exec (.escIllegal x) s = supplied [0x7D, x] ∧
    exec (.frame len data c1 c2) s = supplied ([0x7E, len] ++ data ++ [c1, c2]) ∧
    (s.streamOpen = false →
      ∀ i ∈ [Instr.flag, .escape, .esc7E, .esc7D, .escIllegal x, .frame len data c1 c2], exec i s = .next s)

/-- What the escape codes mean to the Receiver: supplied in RX_DATA with nothing else waiting, each pair is read as one
logical byte, `7E`, `7D`, or `x xor 20` with the frame marked (30_encoding R73, R74; 44_receiver R141 to R143). The
supplying step is the model's choice (log 14). -/
def Obligations.EscapePairsDecode : Prop :=
  ∀ (s : State) (x : Byte), s.rx.st = .data → s.rx.esc = false → s.streamOpen = true → s.wireIn = [] →
    let final (i : Instr) (j : Instr) (v : Byte) (serr : Bool) : Prop :=
      ∃ t, runAll [i, .rDataEsc, j] s = .next t ∧ t.rx.buf = s.rx.buf ++ [v] ∧ t.rx.serr = serr ∧
        t.rx.esc = false ∧ t.wireIn = [] ∧ t.q = s.q ∧ t.gate = s.gate
    final .esc7E .rEscOk 0x7E s.rx.serr ∧ final .esc7D .rEscOk 0x7D s.rx.serr ∧
    (x ≠ 0x5E → x ≠ 0x5D → final (.escIllegal x) .rEscBad (x ^^^ 0x20) true)

/-- 20_memory R47: the circular buffer of `P_QCAP` slots realises the queue. Its ranges are kept, and APPEND, PREPEND and
TAKE on the slots are those on the list, holding where they hold. A slot's length byte is its message's length (log 23). -/
def Obligations.RingRealisesQueue : Prop :=
  ∀ (r : Ring) (m : Message), r.wf →
    r.toQueue.length = r.cnt ∧
    (match r.append m with
      | some u => r.toQueue.length < r.cap ∧ u.wf ∧ u.cap = r.cap ∧ u.toQueue = r.toQueue ++ [m]
      | none => r.toQueue.length = r.cap) ∧
    (match r.prepend m with
      | some u => r.toQueue.length < r.cap ∧ u.wf ∧ u.cap = r.cap ∧ u.toQueue = m :: r.toQueue
      | none => r.toQueue.length = r.cap) ∧
    (match r.take with
      | some (x, u) => u.wf ∧ u.cap = r.cap ∧ r.toQueue = x :: u.toQueue
      | none => r.toQueue = [])

/-! ### The status outputs, the codes, and building a block -/

/-- 30_encoding R83, as read on the status outputs of 10_state R41: in every state each output is the code of its register,
and never an unused one. The codes of responses, refusals and events are those of R78, R79 and R82, one for each constructor,
and no other. 60_exceptions R194: a configuration with a zero is refused when the block is built, any other is built with any
timeout, and what a CONNECT answers is OK or the refusal ALREADY_CONNECTED. -/
def Obligations.CodesAndBuild : Prop :=
  (∀ s : State,
    s.statConn = (match s.conn with | .disconnected => 0 | .connected => 1 | .closing => 2) ∧ s.statConn ≠ 3 ∧
    s.statTxst = (match s.tx.st with | .off => 0 | .wait => 1 | .take => 2 | .send => 3 | .stopped => 4) ∧
    s.statTxst.toNat ≤ 4 ∧
    s.statRxst =
      (match s.rx.st with
        | .off => 0 | .hunt => 1 | .len => 2 | .data => 3 | .cs1 => 4 | .cs2 => 5 | .ack => 6 | .gate => 7
        | .dispatch => 8 | .stopped => 9) ∧
    s.statRxst.toNat ≤ 9 ∧
    s.statGate = s.gate ∧ s.statQsize = s.q.length ∧ s.statQfull = decide (s.q.length = s.cfg.qcap)) ∧
  (∀ x y : Status, x.code.toNat ≤ 2 ∧ (x.code = y.code → x = y) ∧
    x.code = (match x with | .ok => 0 | .refused => 1 | .timeout => 2)) ∧
  (∀ x y : Reason, x.code.toNat ≤ 6 ∧ (x.code = y.code → x = y) ∧
    x.code =
      (match x with
        | .none => 0 | .notConnected => 1 | .alreadyConnected => 2 | .msgTooLong => 3 | .regFull => 4
        | .reservedOp => 5 | .badField => 6)) ∧
  (∀ x y : Event LID, 0x01 ≤ x.code.toNat ∧ x.code.toNat ≤ 0x0C ∧ (x.code = y.code → x.ctorIdx = y.ctorIdx) ∧
    x.code =
      (match x with
        | .cksumMismatch _ _ _ _ _ => 0x01 | .stuffError _ => 0x02 | .cksumExempt _ _ _ _ _ => 0x03 | .runt => 0x04
        | .rxPartial _ => 0x05 | .rxStopped _ => 0x06 | .txStopped _ => 0x07 | .gateTimeout => 0x08
        | .listenerFault _ _ => 0x09 | .deliveryFailure _ _ => 0x0A | .cmdRefused _ _ _ => 0x0B | .ackDropped => 0x0C)) ∧
  RxStopReason.closed.code = 0 ∧ RxStopReason.readError.code = 1 ∧
  TxStopReason.cancelled.code = 0 ∧ TxStopReason.writeError.code = 1 ∧
  (∀ (c : Params) (now : Nat),
    State.build c now =
      if c.qcap = 0 ∨ c.lmax = 0 ∨ c.hosts = 0 then none else some (State.powerOn c now)) ∧
  (∀ (s t : State) (h : Nat) (p q : HostPort),
    s.host[h]? = some p → exec (.connect h) s = .next t → t.host[h]? = some q →
    q.resp = p.resp ∨ q.resp = p.resp ++ [{ status := .ok, reason := .none, value := none }] ∨
      q.resp = p.resp ++ [{ status := .refused, reason := .alreadyConnected, value := none }])
end

