-- ==== Sys2Proof/Laws/State.lean ====
section
/-! SUPPORT. One lemma per field per update of the state, so that no proof unfolds a record update. -/

namespace Sys2Proof.Machine

variable {L : Type}


section
variable (s : State L) (es : List (Event L))

@[simp] theorem State.raise_cfg : (s.raise es).cfg = s.cfg := rfl
@[simp] theorem State.raise_conn : (s.raise es).conn = s.conn := rfl
@[simp] theorem State.raise_streamOpen : (s.raise es).streamOpen = s.streamOpen := rfl
@[simp] theorem State.raise_cancel : (s.raise es).cancel = s.cancel := rfl
@[simp] theorem State.raise_q : (s.raise es).q = s.q := rfl
@[simp] theorem State.raise_gate : (s.raise es).gate = s.gate := rfl
@[simp] theorem State.raise_tx : (s.raise es).tx = s.tx := rfl
@[simp] theorem State.raise_rx : (s.raise es).rx = s.rx := rfl
@[simp] theorem State.raise_reg : (s.raise es).reg = s.reg := rfl
@[simp] theorem State.raise_now : (s.raise es).now = s.now := rfl
@[simp] theorem State.raise_ev : (s.raise es).ev = s.ev ++ es := rfl
@[simp] theorem State.raise_wireOut : (s.raise es).wireOut = s.wireOut := rfl
@[simp] theorem State.raise_host : (s.raise es).host = s.host := rfl
@[simp] theorem State.raise_wireIn : (s.raise es).wireIn = s.wireIn := rfl
@[simp] theorem State.raise_sinkAns : (s.raise es).sinkAns = s.sinkAns := rfl
@[simp] theorem State.raise_lisAns : (s.raise es).lisAns = s.lisAns := rfl
@[simp] theorem State.raise_notes : (s.raise es).notes = s.notes := rfl
@[simp] theorem State.raise_sched : (s.raise es).sched = s.sched := rfl
@[simp] theorem State.raise_draws : (s.raise es).draws = s.draws := rfl
@[simp] theorem State.raise_split : (s.raise es).split = s.split := rfl
end

section
variable (s : State L) (h : Nat) (f : HostPort → HostPort)

@[simp] theorem State.setHost_cfg : (s.setHost h f).cfg = s.cfg := rfl
@[simp] theorem State.setHost_conn : (s.setHost h f).conn = s.conn := rfl
@[simp] theorem State.setHost_streamOpen : (s.setHost h f).streamOpen = s.streamOpen := rfl
@[simp] theorem State.setHost_cancel : (s.setHost h f).cancel = s.cancel := rfl
@[simp] theorem State.setHost_q : (s.setHost h f).q = s.q := rfl
@[simp] theorem State.setHost_gate : (s.setHost h f).gate = s.gate := rfl
@[simp] theorem State.setHost_tx : (s.setHost h f).tx = s.tx := rfl
@[simp] theorem State.setHost_rx : (s.setHost h f).rx = s.rx := rfl
@[simp] theorem State.setHost_reg : (s.setHost h f).reg = s.reg := rfl
@[simp] theorem State.setHost_now : (s.setHost h f).now = s.now := rfl
@[simp] theorem State.setHost_ev : (s.setHost h f).ev = s.ev := rfl
@[simp] theorem State.setHost_wireOut : (s.setHost h f).wireOut = s.wireOut := rfl
@[simp] theorem State.setHost_host : (s.setHost h f).host = s.host.modify h f := rfl
@[simp] theorem State.setHost_wireIn : (s.setHost h f).wireIn = s.wireIn := rfl
@[simp] theorem State.setHost_sinkAns : (s.setHost h f).sinkAns = s.sinkAns := rfl
@[simp] theorem State.setHost_lisAns : (s.setHost h f).lisAns = s.lisAns := rfl
@[simp] theorem State.setHost_notes : (s.setHost h f).notes = s.notes := rfl
@[simp] theorem State.setHost_sched : (s.setHost h f).sched = s.sched := rfl
@[simp] theorem State.setHost_draws : (s.setHost h f).draws = s.draws := rfl
@[simp] theorem State.setHost_split : (s.setHost h f).split = s.split := rfl
end

section
variable (s : State L) (h : Nat) (c : HostCmd)

@[simp] theorem State.setCmd_cfg : (s.setCmd h c).cfg = s.cfg := rfl
@[simp] theorem State.setCmd_conn : (s.setCmd h c).conn = s.conn := rfl
@[simp] theorem State.setCmd_streamOpen : (s.setCmd h c).streamOpen = s.streamOpen := rfl
@[simp] theorem State.setCmd_cancel : (s.setCmd h c).cancel = s.cancel := rfl
@[simp] theorem State.setCmd_q : (s.setCmd h c).q = s.q := rfl
@[simp] theorem State.setCmd_gate : (s.setCmd h c).gate = s.gate := rfl
@[simp] theorem State.setCmd_tx : (s.setCmd h c).tx = s.tx := rfl
@[simp] theorem State.setCmd_rx : (s.setCmd h c).rx = s.rx := rfl
@[simp] theorem State.setCmd_reg : (s.setCmd h c).reg = s.reg := rfl
@[simp] theorem State.setCmd_now : (s.setCmd h c).now = s.now := rfl
@[simp] theorem State.setCmd_ev : (s.setCmd h c).ev = s.ev := rfl
@[simp] theorem State.setCmd_wireOut : (s.setCmd h c).wireOut = s.wireOut := rfl
@[simp] theorem State.setCmd_host : (s.setCmd h c).host = s.host.modify h fun p => { p with cmd := some c } := rfl
@[simp] theorem State.setCmd_wireIn : (s.setCmd h c).wireIn = s.wireIn := rfl
@[simp] theorem State.setCmd_sinkAns : (s.setCmd h c).sinkAns = s.sinkAns := rfl
@[simp] theorem State.setCmd_lisAns : (s.setCmd h c).lisAns = s.lisAns := rfl
@[simp] theorem State.setCmd_notes : (s.setCmd h c).notes = s.notes := rfl
@[simp] theorem State.setCmd_sched : (s.setCmd h c).sched = s.sched := rfl
@[simp] theorem State.setCmd_draws : (s.setCmd h c).draws = s.draws := rfl
@[simp] theorem State.setCmd_split : (s.setCmd h c).split = s.split := rfl
end

section
variable (s : State L) (h d : Nat)

@[simp] theorem State.setDeadline_cfg : (s.setDeadline h d).cfg = s.cfg := rfl
@[simp] theorem State.setDeadline_conn : (s.setDeadline h d).conn = s.conn := rfl
@[simp] theorem State.setDeadline_streamOpen : (s.setDeadline h d).streamOpen = s.streamOpen := rfl
@[simp] theorem State.setDeadline_cancel : (s.setDeadline h d).cancel = s.cancel := rfl
@[simp] theorem State.setDeadline_q : (s.setDeadline h d).q = s.q := rfl
@[simp] theorem State.setDeadline_gate : (s.setDeadline h d).gate = s.gate := rfl
@[simp] theorem State.setDeadline_tx : (s.setDeadline h d).tx = s.tx := rfl
@[simp] theorem State.setDeadline_rx : (s.setDeadline h d).rx = s.rx := rfl
@[simp] theorem State.setDeadline_reg : (s.setDeadline h d).reg = s.reg := rfl
@[simp] theorem State.setDeadline_now : (s.setDeadline h d).now = s.now := rfl
@[simp] theorem State.setDeadline_ev : (s.setDeadline h d).ev = s.ev := rfl
@[simp] theorem State.setDeadline_wireOut : (s.setDeadline h d).wireOut = s.wireOut := rfl
@[simp] theorem State.setDeadline_host : (s.setDeadline h d).host = s.host.modify h fun p => { p with deadline := d } := rfl
@[simp] theorem State.setDeadline_wireIn : (s.setDeadline h d).wireIn = s.wireIn := rfl
@[simp] theorem State.setDeadline_sinkAns : (s.setDeadline h d).sinkAns = s.sinkAns := rfl
@[simp] theorem State.setDeadline_lisAns : (s.setDeadline h d).lisAns = s.lisAns := rfl
@[simp] theorem State.setDeadline_notes : (s.setDeadline h d).notes = s.notes := rfl
@[simp] theorem State.setDeadline_sched : (s.setDeadline h d).sched = s.sched := rfl
@[simp] theorem State.setDeadline_draws : (s.setDeadline h d).draws = s.draws := rfl
@[simp] theorem State.setDeadline_split : (s.setDeadline h d).split = s.split := rfl
end

section
variable (s : State L) (h : Nat) (r : Response)

@[simp] theorem State.respond_cfg : (s.respond h r).cfg = s.cfg := rfl
@[simp] theorem State.respond_conn : (s.respond h r).conn = s.conn := rfl
@[simp] theorem State.respond_streamOpen : (s.respond h r).streamOpen = s.streamOpen := rfl
@[simp] theorem State.respond_cancel : (s.respond h r).cancel = s.cancel := rfl
@[simp] theorem State.respond_q : (s.respond h r).q = s.q := rfl
@[simp] theorem State.respond_gate : (s.respond h r).gate = s.gate := rfl
@[simp] theorem State.respond_tx : (s.respond h r).tx = s.tx := rfl
@[simp] theorem State.respond_rx : (s.respond h r).rx = s.rx := rfl
@[simp] theorem State.respond_reg : (s.respond h r).reg = s.reg := rfl
@[simp] theorem State.respond_now : (s.respond h r).now = s.now := rfl
@[simp] theorem State.respond_ev : (s.respond h r).ev = s.ev := rfl
@[simp] theorem State.respond_wireOut : (s.respond h r).wireOut = s.wireOut := rfl
@[simp] theorem State.respond_host : (s.respond h r).host = s.host.modify h fun p => p.respond r := rfl
@[simp] theorem State.respond_wireIn : (s.respond h r).wireIn = s.wireIn := rfl
@[simp] theorem State.respond_sinkAns : (s.respond h r).sinkAns = s.sinkAns := rfl
@[simp] theorem State.respond_lisAns : (s.respond h r).lisAns = s.lisAns := rfl
@[simp] theorem State.respond_notes : (s.respond h r).notes = s.notes := rfl
@[simp] theorem State.respond_sched : (s.respond h r).sched = s.sched := rfl
@[simp] theorem State.respond_draws : (s.respond h r).draws = s.draws := rfl
@[simp] theorem State.respond_split : (s.respond h r).split = s.split := rfl
end

section
variable (s : State L) (h : Nat) (op : BitVec 4) (r : Reason)

@[simp] theorem State.refuse_cfg : (s.refuse h op r).cfg = s.cfg := rfl
@[simp] theorem State.refuse_conn : (s.refuse h op r).conn = s.conn := rfl
@[simp] theorem State.refuse_streamOpen : (s.refuse h op r).streamOpen = s.streamOpen := rfl
@[simp] theorem State.refuse_cancel : (s.refuse h op r).cancel = s.cancel := rfl
@[simp] theorem State.refuse_q : (s.refuse h op r).q = s.q := rfl
@[simp] theorem State.refuse_gate : (s.refuse h op r).gate = s.gate := rfl
@[simp] theorem State.refuse_tx : (s.refuse h op r).tx = s.tx := rfl
@[simp] theorem State.refuse_rx : (s.refuse h op r).rx = s.rx := rfl
@[simp] theorem State.refuse_reg : (s.refuse h op r).reg = s.reg := rfl
@[simp] theorem State.refuse_now : (s.refuse h op r).now = s.now := rfl
@[simp] theorem State.refuse_ev : (s.refuse h op r).ev = s.ev ++ [.cmdRefused h op r] := rfl
@[simp] theorem State.refuse_wireOut : (s.refuse h op r).wireOut = s.wireOut := rfl
@[simp] theorem State.refuse_host : (s.refuse h op r).host = s.host.modify h fun p => p.respond (refusedResponse r) := rfl
@[simp] theorem State.refuse_wireIn : (s.refuse h op r).wireIn = s.wireIn := rfl
@[simp] theorem State.refuse_sinkAns : (s.refuse h op r).sinkAns = s.sinkAns := rfl
@[simp] theorem State.refuse_lisAns : (s.refuse h op r).lisAns = s.lisAns := rfl
@[simp] theorem State.refuse_notes : (s.refuse h op r).notes = s.notes := rfl
@[simp] theorem State.refuse_sched : (s.refuse h op r).sched = s.sched := rfl
@[simp] theorem State.refuse_draws : (s.refuse h op r).draws = s.draws := rfl
@[simp] theorem State.refuse_split : (s.refuse h op r).split = s.split := rfl
end

section
variable (s : State L) (m : Message)

@[simp] theorem State.enqueue_cfg : (s.enqueue m).cfg = s.cfg := rfl
@[simp] theorem State.enqueue_conn : (s.enqueue m).conn = s.conn := rfl
@[simp] theorem State.enqueue_streamOpen : (s.enqueue m).streamOpen = s.streamOpen := rfl
@[simp] theorem State.enqueue_cancel : (s.enqueue m).cancel = s.cancel := rfl
@[simp] theorem State.enqueue_q : (s.enqueue m).q = s.q ++ [m] := rfl
@[simp] theorem State.enqueue_gate : (s.enqueue m).gate = s.gate := rfl
@[simp] theorem State.enqueue_tx : (s.enqueue m).tx = s.tx := rfl
@[simp] theorem State.enqueue_rx : (s.enqueue m).rx = s.rx := rfl
@[simp] theorem State.enqueue_reg : (s.enqueue m).reg = s.reg := rfl
@[simp] theorem State.enqueue_now : (s.enqueue m).now = s.now := rfl
@[simp] theorem State.enqueue_ev : (s.enqueue m).ev = s.ev := rfl
@[simp] theorem State.enqueue_wireOut : (s.enqueue m).wireOut = s.wireOut := rfl
@[simp] theorem State.enqueue_host : (s.enqueue m).host = s.host := rfl
@[simp] theorem State.enqueue_wireIn : (s.enqueue m).wireIn = s.wireIn := rfl
@[simp] theorem State.enqueue_sinkAns : (s.enqueue m).sinkAns = s.sinkAns := rfl
@[simp] theorem State.enqueue_lisAns : (s.enqueue m).lisAns = s.lisAns := rfl
@[simp] theorem State.enqueue_notes : (s.enqueue m).notes = s.notes := rfl
@[simp] theorem State.enqueue_sched : (s.enqueue m).sched = s.sched := rfl
@[simp] theorem State.enqueue_draws : (s.enqueue m).draws = s.draws := rfl
@[simp] theorem State.enqueue_split : (s.enqueue m).split = s.split := rfl
end

section
variable (s : State L) (m : Message)

@[simp] theorem State.enqueueFront_cfg : (s.enqueueFront m).cfg = s.cfg := rfl
@[simp] theorem State.enqueueFront_conn : (s.enqueueFront m).conn = s.conn := rfl
@[simp] theorem State.enqueueFront_streamOpen : (s.enqueueFront m).streamOpen = s.streamOpen := rfl
@[simp] theorem State.enqueueFront_cancel : (s.enqueueFront m).cancel = s.cancel := rfl
@[simp] theorem State.enqueueFront_q : (s.enqueueFront m).q = m :: s.q := rfl
@[simp] theorem State.enqueueFront_gate : (s.enqueueFront m).gate = s.gate := rfl
@[simp] theorem State.enqueueFront_tx : (s.enqueueFront m).tx = s.tx := rfl
@[simp] theorem State.enqueueFront_rx : (s.enqueueFront m).rx = s.rx := rfl
@[simp] theorem State.enqueueFront_reg : (s.enqueueFront m).reg = s.reg := rfl
@[simp] theorem State.enqueueFront_now : (s.enqueueFront m).now = s.now := rfl
@[simp] theorem State.enqueueFront_ev : (s.enqueueFront m).ev = s.ev := rfl
@[simp] theorem State.enqueueFront_wireOut : (s.enqueueFront m).wireOut = s.wireOut := rfl
@[simp] theorem State.enqueueFront_host : (s.enqueueFront m).host = s.host := rfl
@[simp] theorem State.enqueueFront_wireIn : (s.enqueueFront m).wireIn = s.wireIn := rfl
@[simp] theorem State.enqueueFront_sinkAns : (s.enqueueFront m).sinkAns = s.sinkAns := rfl
@[simp] theorem State.enqueueFront_lisAns : (s.enqueueFront m).lisAns = s.lisAns := rfl
@[simp] theorem State.enqueueFront_notes : (s.enqueueFront m).notes = s.notes := rfl
@[simp] theorem State.enqueueFront_sched : (s.enqueueFront m).sched = s.sched := rfl
@[simp] theorem State.enqueueFront_draws : (s.enqueueFront m).draws = s.draws := rfl
@[simp] theorem State.enqueueFront_split : (s.enqueueFront m).split = s.split := rfl
end

section
variable (s : State L) (h : Nat) (m : Message)

@[simp] theorem State.insertAndRespond_cfg : (s.insertAndRespond h m).cfg = s.cfg := rfl
@[simp] theorem State.insertAndRespond_conn : (s.insertAndRespond h m).conn = s.conn := rfl
@[simp] theorem State.insertAndRespond_streamOpen : (s.insertAndRespond h m).streamOpen = s.streamOpen := rfl
@[simp] theorem State.insertAndRespond_cancel : (s.insertAndRespond h m).cancel = s.cancel := rfl
@[simp] theorem State.insertAndRespond_q : (s.insertAndRespond h m).q = s.q ++ [m] := rfl
@[simp] theorem State.insertAndRespond_gate : (s.insertAndRespond h m).gate = s.gate := rfl
@[simp] theorem State.insertAndRespond_tx : (s.insertAndRespond h m).tx = s.tx := rfl
@[simp] theorem State.insertAndRespond_rx : (s.insertAndRespond h m).rx = s.rx := rfl
@[simp] theorem State.insertAndRespond_reg : (s.insertAndRespond h m).reg = s.reg := rfl
@[simp] theorem State.insertAndRespond_now : (s.insertAndRespond h m).now = s.now := rfl
@[simp] theorem State.insertAndRespond_ev : (s.insertAndRespond h m).ev = s.ev := rfl
@[simp] theorem State.insertAndRespond_wireOut : (s.insertAndRespond h m).wireOut = s.wireOut := rfl
@[simp] theorem State.insertAndRespond_host : (s.insertAndRespond h m).host = s.host.modify h fun p => p.respond okResponse := rfl
@[simp] theorem State.insertAndRespond_wireIn : (s.insertAndRespond h m).wireIn = s.wireIn := rfl
@[simp] theorem State.insertAndRespond_sinkAns : (s.insertAndRespond h m).sinkAns = s.sinkAns := rfl
@[simp] theorem State.insertAndRespond_lisAns : (s.insertAndRespond h m).lisAns = s.lisAns := rfl
@[simp] theorem State.insertAndRespond_notes : (s.insertAndRespond h m).notes = s.notes := rfl
@[simp] theorem State.insertAndRespond_sched : (s.insertAndRespond h m).sched = s.sched := rfl
@[simp] theorem State.insertAndRespond_draws : (s.insertAndRespond h m).draws = s.draws := rfl
@[simp] theorem State.insertAndRespond_split : (s.insertAndRespond h m).split = s.split := rfl
end

section
variable (s : State L)

@[simp] theorem State.drawn_cfg : (s.drawn).cfg = s.cfg := rfl
@[simp] theorem State.drawn_conn : (s.drawn).conn = s.conn := rfl
@[simp] theorem State.drawn_streamOpen : (s.drawn).streamOpen = s.streamOpen := rfl
@[simp] theorem State.drawn_cancel : (s.drawn).cancel = s.cancel := rfl
@[simp] theorem State.drawn_q : (s.drawn).q = s.q := rfl
@[simp] theorem State.drawn_gate : (s.drawn).gate = s.gate := rfl
@[simp] theorem State.drawn_tx : (s.drawn).tx = s.tx := rfl
@[simp] theorem State.drawn_rx : (s.drawn).rx = s.rx := rfl
@[simp] theorem State.drawn_reg : (s.drawn).reg = s.reg := rfl
@[simp] theorem State.drawn_now : (s.drawn).now = s.now := rfl
@[simp] theorem State.drawn_ev : (s.drawn).ev = s.ev := rfl
@[simp] theorem State.drawn_wireOut : (s.drawn).wireOut = s.wireOut := rfl
@[simp] theorem State.drawn_host : (s.drawn).host = s.host := rfl
@[simp] theorem State.drawn_wireIn : (s.drawn).wireIn = s.wireIn := rfl
@[simp] theorem State.drawn_sinkAns : (s.drawn).sinkAns = s.sinkAns := rfl
@[simp] theorem State.drawn_lisAns : (s.drawn).lisAns = s.lisAns := rfl
@[simp] theorem State.drawn_notes : (s.drawn).notes = s.notes := rfl
@[simp] theorem State.drawn_sched : (s.drawn).sched = s.sched := rfl
@[simp] theorem State.drawn_draws : (s.drawn).draws = s.draws + 1 := rfl
@[simp] theorem State.drawn_split : (s.drawn).split = s.split := rfl
end

section
variable (s : State L)

@[simp] theorem State.gateSet_cfg : (s.gateSet).cfg = s.cfg := rfl
@[simp] theorem State.gateSet_conn : (s.gateSet).conn = s.conn := rfl
@[simp] theorem State.gateSet_streamOpen : (s.gateSet).streamOpen = s.streamOpen := rfl
@[simp] theorem State.gateSet_cancel : (s.gateSet).cancel = s.cancel := rfl
@[simp] theorem State.gateSet_q : (s.gateSet).q = s.q := rfl
@[simp] theorem State.gateSet_gate : (s.gateSet).gate = true := rfl
@[simp] theorem State.gateSet_tx : (s.gateSet).tx = s.tx := rfl
@[simp] theorem State.gateSet_rx : (s.gateSet).rx = s.rx := rfl
@[simp] theorem State.gateSet_reg : (s.gateSet).reg = s.reg := rfl
@[simp] theorem State.gateSet_now : (s.gateSet).now = s.now := rfl
@[simp] theorem State.gateSet_ev : (s.gateSet).ev = s.ev := rfl
@[simp] theorem State.gateSet_wireOut : (s.gateSet).wireOut = s.wireOut := rfl
@[simp] theorem State.gateSet_host : (s.gateSet).host = s.host := rfl
@[simp] theorem State.gateSet_wireIn : (s.gateSet).wireIn = s.wireIn := rfl
@[simp] theorem State.gateSet_sinkAns : (s.gateSet).sinkAns = s.sinkAns := rfl
@[simp] theorem State.gateSet_lisAns : (s.gateSet).lisAns = s.lisAns := rfl
@[simp] theorem State.gateSet_notes : (s.gateSet).notes = s.notes := rfl
@[simp] theorem State.gateSet_sched : (s.gateSet).sched = s.sched := rfl
@[simp] theorem State.gateSet_draws : (s.gateSet).draws = s.draws := rfl
@[simp] theorem State.gateSet_split : (s.gateSet).split = s.split := rfl
end

section
variable (s : State L)

@[simp] theorem State.consumeAtWaitExit_cfg : (s.consumeAtWaitExit).cfg = s.cfg := rfl
@[simp] theorem State.consumeAtWaitExit_conn : (s.consumeAtWaitExit).conn = s.conn := rfl
@[simp] theorem State.consumeAtWaitExit_streamOpen : (s.consumeAtWaitExit).streamOpen = s.streamOpen := rfl
@[simp] theorem State.consumeAtWaitExit_cancel : (s.consumeAtWaitExit).cancel = s.cancel := rfl
@[simp] theorem State.consumeAtWaitExit_q : (s.consumeAtWaitExit).q = s.q := rfl
@[simp] theorem State.consumeAtWaitExit_gate : (s.consumeAtWaitExit).gate = if s.cfg.gateConsume = .atWaitExit then false else s.gate := rfl
@[simp] theorem State.consumeAtWaitExit_tx : (s.consumeAtWaitExit).tx = s.tx := rfl
@[simp] theorem State.consumeAtWaitExit_rx : (s.consumeAtWaitExit).rx = s.rx := rfl
@[simp] theorem State.consumeAtWaitExit_reg : (s.consumeAtWaitExit).reg = s.reg := rfl
@[simp] theorem State.consumeAtWaitExit_now : (s.consumeAtWaitExit).now = s.now := rfl
@[simp] theorem State.consumeAtWaitExit_ev : (s.consumeAtWaitExit).ev = s.ev := rfl
@[simp] theorem State.consumeAtWaitExit_wireOut : (s.consumeAtWaitExit).wireOut = s.wireOut := rfl
@[simp] theorem State.consumeAtWaitExit_host : (s.consumeAtWaitExit).host = s.host := rfl
@[simp] theorem State.consumeAtWaitExit_wireIn : (s.consumeAtWaitExit).wireIn = s.wireIn := rfl
@[simp] theorem State.consumeAtWaitExit_sinkAns : (s.consumeAtWaitExit).sinkAns = s.sinkAns := rfl
@[simp] theorem State.consumeAtWaitExit_lisAns : (s.consumeAtWaitExit).lisAns = s.lisAns := rfl
@[simp] theorem State.consumeAtWaitExit_notes : (s.consumeAtWaitExit).notes = s.notes := rfl
@[simp] theorem State.consumeAtWaitExit_sched : (s.consumeAtWaitExit).sched = s.sched := rfl
@[simp] theorem State.consumeAtWaitExit_draws : (s.consumeAtWaitExit).draws = s.draws := rfl
@[simp] theorem State.consumeAtWaitExit_split : (s.consumeAtWaitExit).split = s.split := rfl
end

section
variable (s : State L)

@[simp] theorem State.consumeAtTake_cfg : (s.consumeAtTake).cfg = s.cfg := rfl
@[simp] theorem State.consumeAtTake_conn : (s.consumeAtTake).conn = s.conn := rfl
@[simp] theorem State.consumeAtTake_streamOpen : (s.consumeAtTake).streamOpen = s.streamOpen := rfl
@[simp] theorem State.consumeAtTake_cancel : (s.consumeAtTake).cancel = s.cancel := rfl
@[simp] theorem State.consumeAtTake_q : (s.consumeAtTake).q = s.q := rfl
@[simp] theorem State.consumeAtTake_gate : (s.consumeAtTake).gate = if s.cfg.gateConsume = .atTake then false else s.gate := rfl
@[simp] theorem State.consumeAtTake_tx : (s.consumeAtTake).tx = s.tx := rfl
@[simp] theorem State.consumeAtTake_rx : (s.consumeAtTake).rx = s.rx := rfl
@[simp] theorem State.consumeAtTake_reg : (s.consumeAtTake).reg = s.reg := rfl
@[simp] theorem State.consumeAtTake_now : (s.consumeAtTake).now = s.now := rfl
@[simp] theorem State.consumeAtTake_ev : (s.consumeAtTake).ev = s.ev := rfl
@[simp] theorem State.consumeAtTake_wireOut : (s.consumeAtTake).wireOut = s.wireOut := rfl
@[simp] theorem State.consumeAtTake_host : (s.consumeAtTake).host = s.host := rfl
@[simp] theorem State.consumeAtTake_wireIn : (s.consumeAtTake).wireIn = s.wireIn := rfl
@[simp] theorem State.consumeAtTake_sinkAns : (s.consumeAtTake).sinkAns = s.sinkAns := rfl
@[simp] theorem State.consumeAtTake_lisAns : (s.consumeAtTake).lisAns = s.lisAns := rfl
@[simp] theorem State.consumeAtTake_notes : (s.consumeAtTake).notes = s.notes := rfl
@[simp] theorem State.consumeAtTake_sched : (s.consumeAtTake).sched = s.sched := rfl
@[simp] theorem State.consumeAtTake_draws : (s.consumeAtTake).draws = s.draws := rfl
@[simp] theorem State.consumeAtTake_split : (s.consumeAtTake).split = s.split := rfl
end

section
variable (s : State L) (st : TxSt)

@[simp] theorem State.txGoto_cfg : (s.txGoto st).cfg = s.cfg := rfl
@[simp] theorem State.txGoto_conn : (s.txGoto st).conn = s.conn := rfl
@[simp] theorem State.txGoto_streamOpen : (s.txGoto st).streamOpen = s.streamOpen := rfl
@[simp] theorem State.txGoto_cancel : (s.txGoto st).cancel = s.cancel := rfl
@[simp] theorem State.txGoto_q : (s.txGoto st).q = s.q := rfl
@[simp] theorem State.txGoto_gate : (s.txGoto st).gate = s.gate := rfl
@[simp] theorem State.txGoto_tx : (s.txGoto st).tx = { s.tx with st := st } := rfl
@[simp] theorem State.txGoto_rx : (s.txGoto st).rx = s.rx := rfl
@[simp] theorem State.txGoto_reg : (s.txGoto st).reg = s.reg := rfl
@[simp] theorem State.txGoto_now : (s.txGoto st).now = s.now := rfl
@[simp] theorem State.txGoto_ev : (s.txGoto st).ev = s.ev := rfl
@[simp] theorem State.txGoto_wireOut : (s.txGoto st).wireOut = s.wireOut := rfl
@[simp] theorem State.txGoto_host : (s.txGoto st).host = s.host := rfl
@[simp] theorem State.txGoto_wireIn : (s.txGoto st).wireIn = s.wireIn := rfl
@[simp] theorem State.txGoto_sinkAns : (s.txGoto st).sinkAns = s.sinkAns := rfl
@[simp] theorem State.txGoto_lisAns : (s.txGoto st).lisAns = s.lisAns := rfl
@[simp] theorem State.txGoto_notes : (s.txGoto st).notes = s.notes := rfl
@[simp] theorem State.txGoto_sched : (s.txGoto st).sched = s.sched := rfl
@[simp] theorem State.txGoto_draws : (s.txGoto st).draws = s.draws := rfl
@[simp] theorem State.txGoto_split : (s.txGoto st).split = s.split := rfl
end

section
variable (s : State L) (st : RxSt)

@[simp] theorem State.rxGoto_cfg : (s.rxGoto st).cfg = s.cfg := rfl
@[simp] theorem State.rxGoto_conn : (s.rxGoto st).conn = s.conn := rfl
@[simp] theorem State.rxGoto_streamOpen : (s.rxGoto st).streamOpen = s.streamOpen := rfl
@[simp] theorem State.rxGoto_cancel : (s.rxGoto st).cancel = s.cancel := rfl
@[simp] theorem State.rxGoto_q : (s.rxGoto st).q = s.q := rfl
@[simp] theorem State.rxGoto_gate : (s.rxGoto st).gate = s.gate := rfl
@[simp] theorem State.rxGoto_tx : (s.rxGoto st).tx = s.tx := rfl
@[simp] theorem State.rxGoto_rx : (s.rxGoto st).rx = { s.rx with st := st } := rfl
@[simp] theorem State.rxGoto_reg : (s.rxGoto st).reg = s.reg := rfl
@[simp] theorem State.rxGoto_now : (s.rxGoto st).now = s.now := rfl
@[simp] theorem State.rxGoto_ev : (s.rxGoto st).ev = s.ev := rfl
@[simp] theorem State.rxGoto_wireOut : (s.rxGoto st).wireOut = s.wireOut := rfl
@[simp] theorem State.rxGoto_host : (s.rxGoto st).host = s.host := rfl
@[simp] theorem State.rxGoto_wireIn : (s.rxGoto st).wireIn = s.wireIn := rfl
@[simp] theorem State.rxGoto_sinkAns : (s.rxGoto st).sinkAns = s.sinkAns := rfl
@[simp] theorem State.rxGoto_lisAns : (s.rxGoto st).lisAns = s.lisAns := rfl
@[simp] theorem State.rxGoto_notes : (s.rxGoto st).notes = s.notes := rfl
@[simp] theorem State.rxGoto_sched : (s.rxGoto st).sched = s.sched := rfl
@[simp] theorem State.rxGoto_draws : (s.rxGoto st).draws = s.draws := rfl
@[simp] theorem State.rxGoto_split : (s.rxGoto st).split = s.split := rfl
end

section
variable (s : State L) (r : TxStopReason)

@[simp] theorem State.txStop_cfg : (s.txStop r).cfg = s.cfg := rfl
@[simp] theorem State.txStop_conn : (s.txStop r).conn = s.conn := rfl
@[simp] theorem State.txStop_streamOpen : (s.txStop r).streamOpen = s.streamOpen := rfl
@[simp] theorem State.txStop_cancel : (s.txStop r).cancel = s.cancel := rfl
@[simp] theorem State.txStop_q : (s.txStop r).q = s.q := rfl
@[simp] theorem State.txStop_gate : (s.txStop r).gate = s.gate := rfl
@[simp] theorem State.txStop_tx : (s.txStop r).tx = { s.tx with st := .stopped } := rfl
@[simp] theorem State.txStop_rx : (s.txStop r).rx = s.rx := rfl
@[simp] theorem State.txStop_reg : (s.txStop r).reg = s.reg := rfl
@[simp] theorem State.txStop_now : (s.txStop r).now = s.now := rfl
@[simp] theorem State.txStop_ev : (s.txStop r).ev = s.ev ++ [.txStopped r] := rfl
@[simp] theorem State.txStop_wireOut : (s.txStop r).wireOut = s.wireOut := rfl
@[simp] theorem State.txStop_host : (s.txStop r).host = s.host := rfl
@[simp] theorem State.txStop_wireIn : (s.txStop r).wireIn = s.wireIn := rfl
@[simp] theorem State.txStop_sinkAns : (s.txStop r).sinkAns = s.sinkAns := rfl
@[simp] theorem State.txStop_lisAns : (s.txStop r).lisAns = s.lisAns := rfl
@[simp] theorem State.txStop_notes : (s.txStop r).notes = s.notes := rfl
@[simp] theorem State.txStop_sched : (s.txStop r).sched = s.sched := rfl
@[simp] theorem State.txStop_draws : (s.txStop r).draws = s.draws := rfl
@[simp] theorem State.txStop_split : (s.txStop r).split = s.split := rfl
end

section
variable (s : State L) (m : Message) (rest : List Message)

@[simp] theorem State.takeMessage_cfg : (s.takeMessage m rest).cfg = s.cfg := rfl
@[simp] theorem State.takeMessage_conn : (s.takeMessage m rest).conn = s.conn := rfl
@[simp] theorem State.takeMessage_streamOpen : (s.takeMessage m rest).streamOpen = s.streamOpen := rfl
@[simp] theorem State.takeMessage_cancel : (s.takeMessage m rest).cancel = s.cancel := rfl
@[simp] theorem State.takeMessage_q : (s.takeMessage m rest).q = rest := rfl
@[simp] theorem State.takeMessage_gate : (s.takeMessage m rest).gate = if s.cfg.gateConsume = .atTake then false else s.gate := rfl
@[simp] theorem State.takeMessage_tx : (s.takeMessage m rest).tx = { s.tx with st := .send, frame := encodeFrame m, isAck := isBareAck m } := rfl
@[simp] theorem State.takeMessage_rx : (s.takeMessage m rest).rx = s.rx := rfl
@[simp] theorem State.takeMessage_reg : (s.takeMessage m rest).reg = s.reg := rfl
@[simp] theorem State.takeMessage_now : (s.takeMessage m rest).now = s.now := rfl
@[simp] theorem State.takeMessage_ev : (s.takeMessage m rest).ev = s.ev := rfl
@[simp] theorem State.takeMessage_wireOut : (s.takeMessage m rest).wireOut = s.wireOut := rfl
@[simp] theorem State.takeMessage_host : (s.takeMessage m rest).host = s.host := rfl
@[simp] theorem State.takeMessage_wireIn : (s.takeMessage m rest).wireIn = s.wireIn := rfl
@[simp] theorem State.takeMessage_sinkAns : (s.takeMessage m rest).sinkAns = s.sinkAns := rfl
@[simp] theorem State.takeMessage_lisAns : (s.takeMessage m rest).lisAns = s.lisAns := rfl
@[simp] theorem State.takeMessage_notes : (s.takeMessage m rest).notes = s.notes := rfl
@[simp] theorem State.takeMessage_sched : (s.takeMessage m rest).sched = s.sched := rfl
@[simp] theorem State.takeMessage_draws : (s.takeMessage m rest).draws = s.draws := rfl
@[simp] theorem State.takeMessage_split : (s.takeMessage m rest).split = s.split := rfl
end

section
variable (s : State L)

@[simp] theorem State.insertAck_cfg : (s.insertAck).cfg = s.cfg := rfl
@[simp] theorem State.insertAck_conn : (s.insertAck).conn = s.conn := rfl
@[simp] theorem State.insertAck_streamOpen : (s.insertAck).streamOpen = s.streamOpen := rfl
@[simp] theorem State.insertAck_cancel : (s.insertAck).cancel = s.cancel := rfl
@[simp] theorem State.insertAck_q : (s.insertAck).q = ackMessage :: s.q := rfl
@[simp] theorem State.insertAck_gate : (s.insertAck).gate = s.gate := rfl
@[simp] theorem State.insertAck_tx : (s.insertAck).tx = s.tx := rfl
@[simp] theorem State.insertAck_rx : (s.insertAck).rx = { s.rx with st := .gate } := rfl
@[simp] theorem State.insertAck_reg : (s.insertAck).reg = s.reg := rfl
@[simp] theorem State.insertAck_now : (s.insertAck).now = s.now := rfl
@[simp] theorem State.insertAck_ev : (s.insertAck).ev = s.ev := rfl
@[simp] theorem State.insertAck_wireOut : (s.insertAck).wireOut = s.wireOut := rfl
@[simp] theorem State.insertAck_host : (s.insertAck).host = s.host := rfl
@[simp] theorem State.insertAck_wireIn : (s.insertAck).wireIn = s.wireIn := rfl
@[simp] theorem State.insertAck_sinkAns : (s.insertAck).sinkAns = s.sinkAns := rfl
@[simp] theorem State.insertAck_lisAns : (s.insertAck).lisAns = s.lisAns := rfl
@[simp] theorem State.insertAck_notes : (s.insertAck).notes = s.notes := rfl
@[simp] theorem State.insertAck_sched : (s.insertAck).sched = s.sched := rfl
@[simp] theorem State.insertAck_draws : (s.insertAck).draws = s.draws := rfl
@[simp] theorem State.insertAck_split : (s.insertAck).split = s.split := rfl
end

section
variable (s : State L)

@[simp] theorem State.abortAck_cfg : (s.abortAck).cfg = s.cfg := rfl
@[simp] theorem State.abortAck_conn : (s.abortAck).conn = s.conn := rfl
@[simp] theorem State.abortAck_streamOpen : (s.abortAck).streamOpen = s.streamOpen := rfl
@[simp] theorem State.abortAck_cancel : (s.abortAck).cancel = s.cancel := rfl
@[simp] theorem State.abortAck_q : (s.abortAck).q = s.q := rfl
@[simp] theorem State.abortAck_gate : (s.abortAck).gate = s.gate := rfl
@[simp] theorem State.abortAck_tx : (s.abortAck).tx = s.tx := rfl
@[simp] theorem State.abortAck_rx : (s.abortAck).rx = { s.rx with st := .stopped } := rfl
@[simp] theorem State.abortAck_reg : (s.abortAck).reg = s.reg := rfl
@[simp] theorem State.abortAck_now : (s.abortAck).now = s.now := rfl
@[simp] theorem State.abortAck_ev : (s.abortAck).ev = s.ev ++ [.ackDropped, .rxStopped .closed] := rfl
@[simp] theorem State.abortAck_wireOut : (s.abortAck).wireOut = s.wireOut := rfl
@[simp] theorem State.abortAck_host : (s.abortAck).host = s.host := rfl
@[simp] theorem State.abortAck_wireIn : (s.abortAck).wireIn = s.wireIn := rfl
@[simp] theorem State.abortAck_sinkAns : (s.abortAck).sinkAns = s.sinkAns := rfl
@[simp] theorem State.abortAck_lisAns : (s.abortAck).lisAns = s.lisAns := rfl
@[simp] theorem State.abortAck_notes : (s.abortAck).notes = s.notes := rfl
@[simp] theorem State.abortAck_sched : (s.abortAck).sched = s.sched := rfl
@[simp] theorem State.abortAck_draws : (s.abortAck).draws = s.draws := rfl
@[simp] theorem State.abortAck_split : (s.abortAck).split = s.split := rfl
end

section
variable (s : State L)

@[simp] theorem State.startDispatch_cfg : (s.startDispatch).cfg = s.cfg := rfl
@[simp] theorem State.startDispatch_conn : (s.startDispatch).conn = s.conn := rfl
@[simp] theorem State.startDispatch_streamOpen : (s.startDispatch).streamOpen = s.streamOpen := rfl
@[simp] theorem State.startDispatch_cancel : (s.startDispatch).cancel = s.cancel := rfl
@[simp] theorem State.startDispatch_q : (s.startDispatch).q = s.q := rfl
@[simp] theorem State.startDispatch_gate : (s.startDispatch).gate = s.gate := rfl
@[simp] theorem State.startDispatch_tx : (s.startDispatch).tx = s.tx := rfl
@[simp] theorem State.startDispatch_rx : (s.startDispatch).rx = s.rx.startDispatch s.reg := rfl
@[simp] theorem State.startDispatch_reg : (s.startDispatch).reg = s.reg := rfl
@[simp] theorem State.startDispatch_now : (s.startDispatch).now = s.now := rfl
@[simp] theorem State.startDispatch_ev : (s.startDispatch).ev = s.ev := rfl
@[simp] theorem State.startDispatch_wireOut : (s.startDispatch).wireOut = s.wireOut := rfl
@[simp] theorem State.startDispatch_host : (s.startDispatch).host = s.host := rfl
@[simp] theorem State.startDispatch_wireIn : (s.startDispatch).wireIn = s.wireIn := rfl
@[simp] theorem State.startDispatch_sinkAns : (s.startDispatch).sinkAns = s.sinkAns := rfl
@[simp] theorem State.startDispatch_lisAns : (s.startDispatch).lisAns = s.lisAns := rfl
@[simp] theorem State.startDispatch_notes : (s.startDispatch).notes = s.notes := rfl
@[simp] theorem State.startDispatch_sched : (s.startDispatch).sched = s.sched := rfl
@[simp] theorem State.startDispatch_draws : (s.startDispatch).draws = s.draws := rfl
@[simp] theorem State.startDispatch_split : (s.startDispatch).split = s.split := rfl
end

section
variable (s : State L)

@[simp] theorem State.advance_cfg : (s.advance).cfg = s.cfg := rfl
@[simp] theorem State.advance_conn : (s.advance).conn = s.conn := rfl
@[simp] theorem State.advance_streamOpen : (s.advance).streamOpen = s.streamOpen := rfl
@[simp] theorem State.advance_cancel : (s.advance).cancel = s.cancel := rfl
@[simp] theorem State.advance_q : (s.advance).q = s.q := rfl
@[simp] theorem State.advance_gate : (s.advance).gate = s.gate := rfl
@[simp] theorem State.advance_tx : (s.advance).tx = s.tx := rfl
@[simp] theorem State.advance_rx : (s.advance).rx = s.rx.advance := rfl
@[simp] theorem State.advance_reg : (s.advance).reg = s.reg := rfl
@[simp] theorem State.advance_now : (s.advance).now = s.now := rfl
@[simp] theorem State.advance_ev : (s.advance).ev = s.ev := rfl
@[simp] theorem State.advance_wireOut : (s.advance).wireOut = s.wireOut := rfl
@[simp] theorem State.advance_host : (s.advance).host = s.host := rfl
@[simp] theorem State.advance_wireIn : (s.advance).wireIn = s.wireIn := rfl
@[simp] theorem State.advance_sinkAns : (s.advance).sinkAns = s.sinkAns := rfl
@[simp] theorem State.advance_lisAns : (s.advance).lisAns = none := rfl
@[simp] theorem State.advance_notes : (s.advance).notes = s.notes := rfl
@[simp] theorem State.advance_sched : (s.advance).sched = s.sched := rfl
@[simp] theorem State.advance_draws : (s.advance).draws = s.draws := rfl
@[simp] theorem State.advance_split : (s.advance).split = s.split := rfl
end

section
variable (s : State L)

@[simp] theorem State.connect_cfg : (s.connect).cfg = s.cfg := rfl
@[simp] theorem State.connect_conn : (s.connect).conn = .connected := rfl
@[simp] theorem State.connect_streamOpen : (s.connect).streamOpen = true := rfl
@[simp] theorem State.connect_cancel : (s.connect).cancel = false := rfl
@[simp] theorem State.connect_q : (s.connect).q = [] := rfl
@[simp] theorem State.connect_gate : (s.connect).gate = true := rfl
@[simp] theorem State.connect_tx : (s.connect).tx = { s.tx with st := .wait, deadline := s.now + s.cfg.gateTimeoutMs } := rfl
@[simp] theorem State.connect_rx : (s.connect).rx = { s.rx with st := .hunt } := rfl
@[simp] theorem State.connect_reg : (s.connect).reg = [] := rfl
@[simp] theorem State.connect_now : (s.connect).now = s.now := rfl
@[simp] theorem State.connect_ev : (s.connect).ev = s.ev := rfl
@[simp] theorem State.connect_wireOut : (s.connect).wireOut = s.wireOut := rfl
@[simp] theorem State.connect_host : (s.connect).host = s.host := rfl
@[simp] theorem State.connect_wireIn : (s.connect).wireIn = s.wireIn := rfl
@[simp] theorem State.connect_sinkAns : (s.connect).sinkAns = s.sinkAns := rfl
@[simp] theorem State.connect_lisAns : (s.connect).lisAns = s.lisAns := rfl
@[simp] theorem State.connect_notes : (s.connect).notes = s.notes := rfl
@[simp] theorem State.connect_sched : (s.connect).sched = s.sched := rfl
@[simp] theorem State.connect_draws : (s.connect).draws = s.draws := rfl
@[simp] theorem State.connect_split : (s.connect).split = s.split := rfl
end

section
variable (s : State L)

@[simp] theorem State.startClosing_cfg : (s.startClosing).cfg = s.cfg := rfl
@[simp] theorem State.startClosing_conn : (s.startClosing).conn = .closing := rfl
@[simp] theorem State.startClosing_streamOpen : (s.startClosing).streamOpen = false := rfl
@[simp] theorem State.startClosing_cancel : (s.startClosing).cancel = true := rfl
@[simp] theorem State.startClosing_q : (s.startClosing).q = s.q := rfl
@[simp] theorem State.startClosing_gate : (s.startClosing).gate = s.gate := rfl
@[simp] theorem State.startClosing_tx : (s.startClosing).tx = s.tx := rfl
@[simp] theorem State.startClosing_rx : (s.startClosing).rx = s.rx := rfl
@[simp] theorem State.startClosing_reg : (s.startClosing).reg = s.reg := rfl
@[simp] theorem State.startClosing_now : (s.startClosing).now = s.now := rfl
@[simp] theorem State.startClosing_ev : (s.startClosing).ev = s.ev := rfl
@[simp] theorem State.startClosing_wireOut : (s.startClosing).wireOut = s.wireOut := rfl
@[simp] theorem State.startClosing_host : (s.startClosing).host = s.host := rfl
@[simp] theorem State.startClosing_wireIn : (s.startClosing).wireIn = s.wireIn := rfl
@[simp] theorem State.startClosing_sinkAns : (s.startClosing).sinkAns = s.sinkAns := rfl
@[simp] theorem State.startClosing_lisAns : (s.startClosing).lisAns = s.lisAns := rfl
@[simp] theorem State.startClosing_notes : (s.startClosing).notes = s.notes := rfl
@[simp] theorem State.startClosing_sched : (s.startClosing).sched = s.sched := rfl
@[simp] theorem State.startClosing_draws : (s.startClosing).draws = s.draws := rfl
@[simp] theorem State.startClosing_split : (s.startClosing).split = s.split := rfl
end

section
variable (s : State L)

@[simp] theorem State.completeDisconnect_cfg : (s.completeDisconnect).cfg = s.cfg := rfl
@[simp] theorem State.completeDisconnect_conn : (s.completeDisconnect).conn = .disconnected := rfl
@[simp] theorem State.completeDisconnect_streamOpen : (s.completeDisconnect).streamOpen = s.streamOpen := rfl
@[simp] theorem State.completeDisconnect_cancel : (s.completeDisconnect).cancel = s.cancel := rfl
@[simp] theorem State.completeDisconnect_q : (s.completeDisconnect).q = [] := rfl
@[simp] theorem State.completeDisconnect_gate : (s.completeDisconnect).gate = s.gate := rfl
@[simp] theorem State.completeDisconnect_tx : (s.completeDisconnect).tx = { s.tx with st := .off } := rfl
@[simp] theorem State.completeDisconnect_rx : (s.completeDisconnect).rx = { s.rx with st := .off } := rfl
@[simp] theorem State.completeDisconnect_reg : (s.completeDisconnect).reg = [] := rfl
@[simp] theorem State.completeDisconnect_now : (s.completeDisconnect).now = s.now := rfl
@[simp] theorem State.completeDisconnect_ev : (s.completeDisconnect).ev = s.ev := rfl
@[simp] theorem State.completeDisconnect_wireOut : (s.completeDisconnect).wireOut = s.wireOut := rfl
@[simp] theorem State.completeDisconnect_host : (s.completeDisconnect).host = s.host.map HostPort.completeDisconnect := rfl
@[simp] theorem State.completeDisconnect_wireIn : (s.completeDisconnect).wireIn = s.wireIn := rfl
@[simp] theorem State.completeDisconnect_sinkAns : (s.completeDisconnect).sinkAns = s.sinkAns := rfl
@[simp] theorem State.completeDisconnect_lisAns : (s.completeDisconnect).lisAns = s.lisAns := rfl
@[simp] theorem State.completeDisconnect_notes : (s.completeDisconnect).notes = s.notes := rfl
@[simp] theorem State.completeDisconnect_sched : (s.completeDisconnect).sched = s.sched := rfl
@[simp] theorem State.completeDisconnect_draws : (s.completeDisconnect).draws = s.draws := rfl
@[simp] theorem State.completeDisconnect_split : (s.completeDisconnect).split = s.split := rfl
end

section
variable (s : State L)

@[simp] theorem State.endFrame_cfg : (s.endFrame).cfg = s.cfg := rfl
@[simp] theorem State.endFrame_conn : (s.endFrame).conn = s.conn := rfl
@[simp] theorem State.endFrame_streamOpen : (s.endFrame).streamOpen = s.streamOpen := rfl
@[simp] theorem State.endFrame_cancel : (s.endFrame).cancel = s.cancel := rfl
@[simp] theorem State.endFrame_q : (s.endFrame).q = s.q := rfl
@[simp] theorem State.endFrame_gate : (s.endFrame).gate = if s.tx.isAck then true else s.gate := rfl
@[simp] theorem State.endFrame_tx : (s.endFrame).tx = { s.tx with st := .wait, deadline := s.now + s.cfg.gateTimeoutMs } := rfl
@[simp] theorem State.endFrame_rx : (s.endFrame).rx = s.rx := rfl
@[simp] theorem State.endFrame_reg : (s.endFrame).reg = s.reg := rfl
@[simp] theorem State.endFrame_now : (s.endFrame).now = s.now := rfl
@[simp] theorem State.endFrame_ev : (s.endFrame).ev = s.ev := rfl
@[simp] theorem State.endFrame_wireOut : (s.endFrame).wireOut = s.wireOut := rfl
@[simp] theorem State.endFrame_host : (s.endFrame).host = s.host := rfl
@[simp] theorem State.endFrame_wireIn : (s.endFrame).wireIn = s.wireIn := rfl
@[simp] theorem State.endFrame_sinkAns : (s.endFrame).sinkAns = s.sinkAns := rfl
@[simp] theorem State.endFrame_lisAns : (s.endFrame).lisAns = s.lisAns := rfl
@[simp] theorem State.endFrame_notes : (s.endFrame).notes = s.notes := rfl
@[simp] theorem State.endFrame_sched : (s.endFrame).sched = s.sched := rfl
@[simp] theorem State.endFrame_draws : (s.endFrame).draws = s.draws := rfl
@[simp] theorem State.endFrame_split : (s.endFrame).split = s.split := rfl
end

section
variable (s : State L) (b : Bool)

@[simp] theorem State.withSplit_cfg : (s.withSplit b).cfg = s.cfg := rfl
@[simp] theorem State.withSplit_conn : (s.withSplit b).conn = s.conn := rfl
@[simp] theorem State.withSplit_streamOpen : (s.withSplit b).streamOpen = s.streamOpen := rfl
@[simp] theorem State.withSplit_cancel : (s.withSplit b).cancel = s.cancel := rfl
@[simp] theorem State.withSplit_q : (s.withSplit b).q = s.q := rfl
@[simp] theorem State.withSplit_gate : (s.withSplit b).gate = s.gate := rfl
@[simp] theorem State.withSplit_tx : (s.withSplit b).tx = s.tx := rfl
@[simp] theorem State.withSplit_rx : (s.withSplit b).rx = s.rx := rfl
@[simp] theorem State.withSplit_reg : (s.withSplit b).reg = s.reg := rfl
@[simp] theorem State.withSplit_now : (s.withSplit b).now = s.now := rfl
@[simp] theorem State.withSplit_ev : (s.withSplit b).ev = s.ev := rfl
@[simp] theorem State.withSplit_wireOut : (s.withSplit b).wireOut = s.wireOut := rfl
@[simp] theorem State.withSplit_host : (s.withSplit b).host = s.host := rfl
@[simp] theorem State.withSplit_wireIn : (s.withSplit b).wireIn = s.wireIn := rfl
@[simp] theorem State.withSplit_sinkAns : (s.withSplit b).sinkAns = s.sinkAns := rfl
@[simp] theorem State.withSplit_lisAns : (s.withSplit b).lisAns = s.lisAns := rfl
@[simp] theorem State.withSplit_notes : (s.withSplit b).notes = s.notes := rfl
@[simp] theorem State.withSplit_sched : (s.withSplit b).sched = s.sched := rfl
@[simp] theorem State.withSplit_draws : (s.withSplit b).draws = s.draws := rfl
@[simp] theorem State.withSplit_split : (s.withSplit b).split = b := rfl
end

section
variable (s : State L) (c : Choice)

@[simp] theorem State.choosing_cfg : (s.choosing c).cfg = s.cfg := rfl
@[simp] theorem State.choosing_conn : (s.choosing c).conn = s.conn := rfl
@[simp] theorem State.choosing_streamOpen : (s.choosing c).streamOpen = s.streamOpen := rfl
@[simp] theorem State.choosing_cancel : (s.choosing c).cancel = s.cancel := rfl
@[simp] theorem State.choosing_q : (s.choosing c).q = s.q := rfl
@[simp] theorem State.choosing_gate : (s.choosing c).gate = s.gate := rfl
@[simp] theorem State.choosing_tx : (s.choosing c).tx = s.tx := rfl
@[simp] theorem State.choosing_rx : (s.choosing c).rx = s.rx := rfl
@[simp] theorem State.choosing_reg : (s.choosing c).reg = s.reg := rfl
@[simp] theorem State.choosing_now : (s.choosing c).now = s.now := rfl
@[simp] theorem State.choosing_ev : (s.choosing c).ev = s.ev := rfl
@[simp] theorem State.choosing_wireOut : (s.choosing c).wireOut = s.wireOut := rfl
@[simp] theorem State.choosing_host : (s.choosing c).host = s.host := rfl
@[simp] theorem State.choosing_wireIn : (s.choosing c).wireIn = s.wireIn := rfl
@[simp] theorem State.choosing_sinkAns : (s.choosing c).sinkAns = s.sinkAns := rfl
@[simp] theorem State.choosing_lisAns : (s.choosing c).lisAns = s.lisAns := rfl
@[simp] theorem State.choosing_notes : (s.choosing c).notes = s.notes := rfl
@[simp] theorem State.choosing_sched : (s.choosing c).sched = c :: s.sched := rfl
@[simp] theorem State.choosing_draws : (s.choosing c).draws = s.draws := rfl
@[simp] theorem State.choosing_split : (s.choosing c).split = s.split := rfl
end

section
variable (s : State L) (ms : Nat)

@[simp] theorem State.tick_cfg : (s.tick ms).cfg = s.cfg := rfl
@[simp] theorem State.tick_conn : (s.tick ms).conn = s.conn := rfl
@[simp] theorem State.tick_streamOpen : (s.tick ms).streamOpen = s.streamOpen := rfl
@[simp] theorem State.tick_cancel : (s.tick ms).cancel = s.cancel := rfl
@[simp] theorem State.tick_q : (s.tick ms).q = s.q := rfl
@[simp] theorem State.tick_gate : (s.tick ms).gate = s.gate := rfl
@[simp] theorem State.tick_tx : (s.tick ms).tx = s.tx := rfl
@[simp] theorem State.tick_rx : (s.tick ms).rx = s.rx := rfl
@[simp] theorem State.tick_reg : (s.tick ms).reg = s.reg := rfl
@[simp] theorem State.tick_now : (s.tick ms).now = s.now + ms := rfl
@[simp] theorem State.tick_ev : (s.tick ms).ev = s.ev := rfl
@[simp] theorem State.tick_wireOut : (s.tick ms).wireOut = s.wireOut := rfl
@[simp] theorem State.tick_host : (s.tick ms).host = s.host := rfl
@[simp] theorem State.tick_wireIn : (s.tick ms).wireIn = s.wireIn := rfl
@[simp] theorem State.tick_sinkAns : (s.tick ms).sinkAns = s.sinkAns := rfl
@[simp] theorem State.tick_lisAns : (s.tick ms).lisAns = s.lisAns := rfl
@[simp] theorem State.tick_notes : (s.tick ms).notes = s.notes := rfl
@[simp] theorem State.tick_sched : (s.tick ms).sched = s.sched := rfl
@[simp] theorem State.tick_draws : (s.tick ms).draws = s.draws := rfl
@[simp] theorem State.tick_split : (s.tick ms).split = s.split := rfl
end

section
variable (s : State L)

@[simp] theorem State.dropSymbols_cfg : (s.dropSymbols).cfg = s.cfg := rfl
@[simp] theorem State.dropSymbols_conn : (s.dropSymbols).conn = s.conn := rfl
@[simp] theorem State.dropSymbols_streamOpen : (s.dropSymbols).streamOpen = s.streamOpen := rfl
@[simp] theorem State.dropSymbols_cancel : (s.dropSymbols).cancel = s.cancel := rfl
@[simp] theorem State.dropSymbols_q : (s.dropSymbols).q = s.q := rfl
@[simp] theorem State.dropSymbols_gate : (s.dropSymbols).gate = s.gate := rfl
@[simp] theorem State.dropSymbols_tx : (s.dropSymbols).tx = s.tx := rfl
@[simp] theorem State.dropSymbols_rx : (s.dropSymbols).rx = s.rx := rfl
@[simp] theorem State.dropSymbols_reg : (s.dropSymbols).reg = s.reg := rfl
@[simp] theorem State.dropSymbols_now : (s.dropSymbols).now = s.now := rfl
@[simp] theorem State.dropSymbols_ev : (s.dropSymbols).ev = s.ev := rfl
@[simp] theorem State.dropSymbols_wireOut : (s.dropSymbols).wireOut = s.wireOut := rfl
@[simp] theorem State.dropSymbols_host : (s.dropSymbols).host = s.host := rfl
@[simp] theorem State.dropSymbols_wireIn : (s.dropSymbols).wireIn = [] := rfl
@[simp] theorem State.dropSymbols_sinkAns : (s.dropSymbols).sinkAns = s.sinkAns := rfl
@[simp] theorem State.dropSymbols_lisAns : (s.dropSymbols).lisAns = s.lisAns := rfl
@[simp] theorem State.dropSymbols_notes : (s.dropSymbols).notes = s.notes := rfl
@[simp] theorem State.dropSymbols_sched : (s.dropSymbols).sched = s.sched := rfl
@[simp] theorem State.dropSymbols_draws : (s.dropSymbols).draws = s.draws := rfl
@[simp] theorem State.dropSymbols_split : (s.dropSymbols).split = s.split := rfl
end

section
variable (s : State L)

@[simp] theorem State.dropAnswers_cfg : (s.dropAnswers).cfg = s.cfg := rfl
@[simp] theorem State.dropAnswers_conn : (s.dropAnswers).conn = s.conn := rfl
@[simp] theorem State.dropAnswers_streamOpen : (s.dropAnswers).streamOpen = s.streamOpen := rfl
@[simp] theorem State.dropAnswers_cancel : (s.dropAnswers).cancel = s.cancel := rfl
@[simp] theorem State.dropAnswers_q : (s.dropAnswers).q = s.q := rfl
@[simp] theorem State.dropAnswers_gate : (s.dropAnswers).gate = s.gate := rfl
@[simp] theorem State.dropAnswers_tx : (s.dropAnswers).tx = s.tx := rfl
@[simp] theorem State.dropAnswers_rx : (s.dropAnswers).rx = s.rx := rfl
@[simp] theorem State.dropAnswers_reg : (s.dropAnswers).reg = s.reg := rfl
@[simp] theorem State.dropAnswers_now : (s.dropAnswers).now = s.now := rfl
@[simp] theorem State.dropAnswers_ev : (s.dropAnswers).ev = s.ev := rfl
@[simp] theorem State.dropAnswers_wireOut : (s.dropAnswers).wireOut = s.wireOut := rfl
@[simp] theorem State.dropAnswers_host : (s.dropAnswers).host = s.host := rfl
@[simp] theorem State.dropAnswers_wireIn : (s.dropAnswers).wireIn = s.wireIn := rfl
@[simp] theorem State.dropAnswers_sinkAns : (s.dropAnswers).sinkAns = [] := rfl
@[simp] theorem State.dropAnswers_lisAns : (s.dropAnswers).lisAns = s.lisAns := rfl
@[simp] theorem State.dropAnswers_notes : (s.dropAnswers).notes = s.notes := rfl
@[simp] theorem State.dropAnswers_sched : (s.dropAnswers).sched = s.sched := rfl
@[simp] theorem State.dropAnswers_draws : (s.dropAnswers).draws = s.draws := rfl
@[simp] theorem State.dropAnswers_split : (s.dropAnswers).split = s.split := rfl
end

section
variable (s : State L)

@[simp] theorem State.consumeSymbol_cfg : s.consumeSymbol.cfg = s.cfg := by
  unfold State.consumeSymbol; split <;> rfl
@[simp] theorem State.consumeSymbol_conn : s.consumeSymbol.conn = s.conn := by
  unfold State.consumeSymbol; split <;> rfl
@[simp] theorem State.consumeSymbol_streamOpen : s.consumeSymbol.streamOpen = s.streamOpen := by
  unfold State.consumeSymbol; split <;> rfl
@[simp] theorem State.consumeSymbol_cancel : s.consumeSymbol.cancel = s.cancel := by
  unfold State.consumeSymbol; split <;> rfl
@[simp] theorem State.consumeSymbol_q : s.consumeSymbol.q = s.q := by
  unfold State.consumeSymbol; split <;> rfl
@[simp] theorem State.consumeSymbol_gate : s.consumeSymbol.gate = s.gate := by
  unfold State.consumeSymbol; split <;> rfl
@[simp] theorem State.consumeSymbol_tx : s.consumeSymbol.tx = s.tx := by
  unfold State.consumeSymbol; split <;> rfl
@[simp] theorem State.consumeSymbol_rx : s.consumeSymbol.rx = s.rx := by
  unfold State.consumeSymbol; split <;> rfl
@[simp] theorem State.consumeSymbol_reg : s.consumeSymbol.reg = s.reg := by
  unfold State.consumeSymbol; split <;> rfl
@[simp] theorem State.consumeSymbol_now : s.consumeSymbol.now = s.now := by
  unfold State.consumeSymbol; split <;> rfl
@[simp] theorem State.consumeSymbol_ev : s.consumeSymbol.ev = s.ev := by
  unfold State.consumeSymbol; split <;> rfl
@[simp] theorem State.consumeSymbol_wireOut : s.consumeSymbol.wireOut = s.wireOut := by
  unfold State.consumeSymbol; split <;> rfl
@[simp] theorem State.consumeSymbol_host : s.consumeSymbol.host = s.host := by
  unfold State.consumeSymbol; split <;> rfl
@[simp] theorem State.consumeSymbol_wireIn : s.consumeSymbol.wireIn = if s.streamOpen then s.wireIn.tail else s.wireIn := by
  unfold State.consumeSymbol; split <;> rfl
@[simp] theorem State.consumeSymbol_sinkAns : s.consumeSymbol.sinkAns = s.sinkAns := by
  unfold State.consumeSymbol; split <;> rfl
@[simp] theorem State.consumeSymbol_lisAns : s.consumeSymbol.lisAns = s.lisAns := by
  unfold State.consumeSymbol; split <;> rfl
@[simp] theorem State.consumeSymbol_notes : s.consumeSymbol.notes = s.notes := by
  unfold State.consumeSymbol; split <;> rfl
@[simp] theorem State.consumeSymbol_sched : s.consumeSymbol.sched = s.sched := by
  unfold State.consumeSymbol; split <;> rfl
@[simp] theorem State.consumeSymbol_draws : s.consumeSymbol.draws = s.draws := by
  unfold State.consumeSymbol; split <;> rfl
@[simp] theorem State.consumeSymbol_split : s.consumeSymbol.split = s.split := by
  unfold State.consumeSymbol; split <;> rfl
end

section
variable (s : State L)

@[simp] theorem State.fetched_cfg : s.fetched.cfg = s.cfg := by
  unfold State.fetched; split <;> rfl
@[simp] theorem State.fetched_conn : s.fetched.conn = s.conn := by
  unfold State.fetched; split <;> rfl
@[simp] theorem State.fetched_streamOpen : s.fetched.streamOpen = s.streamOpen := by
  unfold State.fetched; split <;> rfl
@[simp] theorem State.fetched_cancel : s.fetched.cancel = s.cancel := by
  unfold State.fetched; split <;> rfl
@[simp] theorem State.fetched_q : s.fetched.q = s.q := by
  unfold State.fetched; split <;> rfl
@[simp] theorem State.fetched_gate : s.fetched.gate = s.gate := by
  unfold State.fetched; split <;> rfl
@[simp] theorem State.fetched_tx : s.fetched.tx = s.tx := by
  unfold State.fetched; split <;> rfl
@[simp] theorem State.fetched_rx : s.fetched.rx = s.rx := by
  unfold State.fetched; split <;> rfl
@[simp] theorem State.fetched_reg : s.fetched.reg = s.reg := by
  unfold State.fetched; split <;> rfl
@[simp] theorem State.fetched_now : s.fetched.now = s.now := by
  unfold State.fetched; split <;> rfl
@[simp] theorem State.fetched_ev : s.fetched.ev = s.ev := by
  unfold State.fetched; split <;> rfl
@[simp] theorem State.fetched_wireOut : s.fetched.wireOut = s.wireOut := by
  unfold State.fetched; split <;> rfl
@[simp] theorem State.fetched_host : s.fetched.host = s.host := by
  unfold State.fetched; split <;> rfl
@[simp] theorem State.fetched_wireIn : s.fetched.wireIn = s.wireIn := by
  unfold State.fetched; split <;> rfl
@[simp] theorem State.fetched_sinkAns : s.fetched.sinkAns = s.sinkAns := by
  unfold State.fetched; split <;> rfl
@[simp] theorem State.fetched_lisAns : s.fetched.lisAns = s.lisAns := by
  unfold State.fetched; split <;> rfl
@[simp] theorem State.fetched_notes : s.fetched.notes = s.notes := by
  unfold State.fetched; split <;> rfl
@[simp] theorem State.fetched_sched : s.fetched.sched = s.sched.tail := by
  unfold State.fetched; split <;> simp_all
@[simp] theorem State.fetched_draws : s.fetched.draws = if s.sched = [] then s.draws + 1 else s.draws := by
  unfold State.fetched; split <;> simp_all
@[simp] theorem State.fetched_split : s.fetched.split = s.split := by
  unfold State.fetched; split <;> rfl
end

section
variable (s : State L) (b : Byte)

@[simp] theorem State.finishFrame_cfg : (s.finishFrame b).cfg = s.cfg := by simp [State.finishFrame]
@[simp] theorem State.finishFrame_conn : (s.finishFrame b).conn = s.conn := by simp [State.finishFrame]
@[simp] theorem State.finishFrame_streamOpen : (s.finishFrame b).streamOpen = s.streamOpen := by simp [State.finishFrame]
@[simp] theorem State.finishFrame_cancel : (s.finishFrame b).cancel = s.cancel := by simp [State.finishFrame]
@[simp] theorem State.finishFrame_q : (s.finishFrame b).q = s.q := by simp [State.finishFrame]
@[simp] theorem State.finishFrame_gate : (s.finishFrame b).gate = s.gate := by simp [State.finishFrame]
@[simp] theorem State.finishFrame_tx : (s.finishFrame b).tx = s.tx := by simp [State.finishFrame]
@[simp] theorem State.finishFrame_rx : (s.finishFrame b).rx = { s.rx with c2 := b, ok := s.rx.validity b, st := .ack } := by simp [State.finishFrame]
@[simp] theorem State.finishFrame_reg : (s.finishFrame b).reg = s.reg := by simp [State.finishFrame]
@[simp] theorem State.finishFrame_now : (s.finishFrame b).now = s.now := by simp [State.finishFrame]
@[simp] theorem State.finishFrame_ev : (s.finishFrame b).ev = s.ev ++ s.rx.frameEvents b := by simp [State.finishFrame]
@[simp] theorem State.finishFrame_wireOut : (s.finishFrame b).wireOut = s.wireOut := by simp [State.finishFrame]
@[simp] theorem State.finishFrame_host : (s.finishFrame b).host = s.host := by simp [State.finishFrame]
@[simp] theorem State.finishFrame_wireIn : (s.finishFrame b).wireIn = if s.streamOpen then s.wireIn.tail else s.wireIn := by simp [State.finishFrame]
@[simp] theorem State.finishFrame_sinkAns : (s.finishFrame b).sinkAns = s.sinkAns := by simp [State.finishFrame]
@[simp] theorem State.finishFrame_lisAns : (s.finishFrame b).lisAns = s.lisAns := by simp [State.finishFrame]
@[simp] theorem State.finishFrame_notes : (s.finishFrame b).notes = s.notes := by simp [State.finishFrame]
@[simp] theorem State.finishFrame_sched : (s.finishFrame b).sched = s.sched := by simp [State.finishFrame]
@[simp] theorem State.finishFrame_draws : (s.finishFrame b).draws = s.draws := by simp [State.finishFrame]
@[simp] theorem State.finishFrame_split : (s.finishFrame b).split = s.split := by simp [State.finishFrame]
end

section
variable (s : State L) (r : RxStopReason)

@[simp] theorem State.rxClose_cfg : (s.rxClose r).cfg = s.cfg := by simp [State.rxClose]
@[simp] theorem State.rxClose_conn : (s.rxClose r).conn = s.conn := by simp [State.rxClose]
@[simp] theorem State.rxClose_streamOpen : (s.rxClose r).streamOpen = s.streamOpen := by simp [State.rxClose]
@[simp] theorem State.rxClose_cancel : (s.rxClose r).cancel = s.cancel := by simp [State.rxClose]
@[simp] theorem State.rxClose_q : (s.rxClose r).q = s.q := by simp [State.rxClose]
@[simp] theorem State.rxClose_gate : (s.rxClose r).gate = s.gate := by simp [State.rxClose]
@[simp] theorem State.rxClose_tx : (s.rxClose r).tx = s.tx := by simp [State.rxClose]
@[simp] theorem State.rxClose_rx : (s.rxClose r).rx = { s.rx with st := .stopped } := by simp [State.rxClose]
@[simp] theorem State.rxClose_reg : (s.rxClose r).reg = s.reg := by simp [State.rxClose]
@[simp] theorem State.rxClose_now : (s.rxClose r).now = s.now := by simp [State.rxClose]
@[simp] theorem State.rxClose_ev : (s.rxClose r).ev = s.ev ++ s.rx.closeEvents r := by simp [State.rxClose]
@[simp] theorem State.rxClose_wireOut : (s.rxClose r).wireOut = s.wireOut := by simp [State.rxClose]
@[simp] theorem State.rxClose_host : (s.rxClose r).host = s.host := by simp [State.rxClose]
@[simp] theorem State.rxClose_wireIn : (s.rxClose r).wireIn = if s.streamOpen then s.wireIn.tail else s.wireIn := by simp [State.rxClose]
@[simp] theorem State.rxClose_sinkAns : (s.rxClose r).sinkAns = s.sinkAns := by simp [State.rxClose]
@[simp] theorem State.rxClose_lisAns : (s.rxClose r).lisAns = s.lisAns := by simp [State.rxClose]
@[simp] theorem State.rxClose_notes : (s.rxClose r).notes = s.notes := by simp [State.rxClose]
@[simp] theorem State.rxClose_sched : (s.rxClose r).sched = s.sched := by simp [State.rxClose]
@[simp] theorem State.rxClose_draws : (s.rxClose r).draws = s.draws := by simp [State.rxClose]
@[simp] theorem State.rxClose_split : (s.rxClose r).split = s.split := by simp [State.rxClose]
end

section
variable (s : State L) (xs : List Symbol)

@[simp] theorem State.offerSymbols_cfg : (s.offerSymbols xs).cfg = s.cfg := by
  unfold State.offerSymbols; split <;> rfl
@[simp] theorem State.offerSymbols_conn : (s.offerSymbols xs).conn = s.conn := by
  unfold State.offerSymbols; split <;> rfl
@[simp] theorem State.offerSymbols_streamOpen : (s.offerSymbols xs).streamOpen = s.streamOpen := by
  unfold State.offerSymbols; split <;> rfl
@[simp] theorem State.offerSymbols_cancel : (s.offerSymbols xs).cancel = s.cancel := by
  unfold State.offerSymbols; split <;> rfl
@[simp] theorem State.offerSymbols_q : (s.offerSymbols xs).q = s.q := by
  unfold State.offerSymbols; split <;> rfl
@[simp] theorem State.offerSymbols_gate : (s.offerSymbols xs).gate = s.gate := by
  unfold State.offerSymbols; split <;> rfl
@[simp] theorem State.offerSymbols_tx : (s.offerSymbols xs).tx = s.tx := by
  unfold State.offerSymbols; split <;> rfl
@[simp] theorem State.offerSymbols_rx : (s.offerSymbols xs).rx = s.rx := by
  unfold State.offerSymbols; split <;> rfl
@[simp] theorem State.offerSymbols_reg : (s.offerSymbols xs).reg = s.reg := by
  unfold State.offerSymbols; split <;> rfl
@[simp] theorem State.offerSymbols_now : (s.offerSymbols xs).now = s.now := by
  unfold State.offerSymbols; split <;> rfl
@[simp] theorem State.offerSymbols_ev : (s.offerSymbols xs).ev = s.ev := by
  unfold State.offerSymbols; split <;> rfl
@[simp] theorem State.offerSymbols_wireOut : (s.offerSymbols xs).wireOut = s.wireOut := by
  unfold State.offerSymbols; split <;> rfl
@[simp] theorem State.offerSymbols_host : (s.offerSymbols xs).host = s.host := by
  unfold State.offerSymbols; split <;> rfl
@[simp] theorem State.offerSymbols_wireIn : (s.offerSymbols xs).wireIn = if s.streamOpen then s.wireIn ++ xs else s.wireIn := by
  unfold State.offerSymbols; split <;> rfl
@[simp] theorem State.offerSymbols_sinkAns : (s.offerSymbols xs).sinkAns = s.sinkAns := by
  unfold State.offerSymbols; split <;> rfl
@[simp] theorem State.offerSymbols_lisAns : (s.offerSymbols xs).lisAns = s.lisAns := by
  unfold State.offerSymbols; split <;> rfl
@[simp] theorem State.offerSymbols_notes : (s.offerSymbols xs).notes = s.notes := by
  unfold State.offerSymbols; split <;> rfl
@[simp] theorem State.offerSymbols_sched : (s.offerSymbols xs).sched = s.sched := by
  unfold State.offerSymbols; split <;> rfl
@[simp] theorem State.offerSymbols_draws : (s.offerSymbols xs).draws = s.draws := by
  unfold State.offerSymbols; split <;> rfl
@[simp] theorem State.offerSymbols_split : (s.offerSymbols xs).split = s.split := by
  unfold State.offerSymbols; split <;> rfl
theorem State.offerSymbols_open (h : s.streamOpen = true) : s.offerSymbols xs = { s with wireIn := s.wireIn ++ xs } := if_pos h
theorem State.offerSymbols_closed (h : s.streamOpen = false) : s.offerSymbols xs = s := if_neg (by simp [h])
end

section
variable (s : State L) (bs : List Byte)

@[simp] theorem State.supply_cfg : (s.supply bs).cfg = s.cfg := by simp [State.supply]
@[simp] theorem State.supply_conn : (s.supply bs).conn = s.conn := by simp [State.supply]
@[simp] theorem State.supply_streamOpen : (s.supply bs).streamOpen = s.streamOpen := by simp [State.supply]
@[simp] theorem State.supply_cancel : (s.supply bs).cancel = s.cancel := by simp [State.supply]
@[simp] theorem State.supply_q : (s.supply bs).q = s.q := by simp [State.supply]
@[simp] theorem State.supply_gate : (s.supply bs).gate = s.gate := by simp [State.supply]
@[simp] theorem State.supply_tx : (s.supply bs).tx = s.tx := by simp [State.supply]
@[simp] theorem State.supply_rx : (s.supply bs).rx = s.rx := by simp [State.supply]
@[simp] theorem State.supply_reg : (s.supply bs).reg = s.reg := by simp [State.supply]
@[simp] theorem State.supply_now : (s.supply bs).now = s.now := by simp [State.supply]
@[simp] theorem State.supply_ev : (s.supply bs).ev = s.ev := by simp [State.supply]
@[simp] theorem State.supply_wireOut : (s.supply bs).wireOut = s.wireOut := by simp [State.supply]
@[simp] theorem State.supply_host : (s.supply bs).host = s.host := by simp [State.supply]
@[simp] theorem State.supply_wireIn : (s.supply bs).wireIn = if s.streamOpen then s.wireIn ++ bs.map .byte else s.wireIn := by simp [State.supply]
@[simp] theorem State.supply_sinkAns : (s.supply bs).sinkAns = s.sinkAns := by simp [State.supply]
@[simp] theorem State.supply_lisAns : (s.supply bs).lisAns = s.lisAns := by simp [State.supply]
@[simp] theorem State.supply_notes : (s.supply bs).notes = s.notes := by simp [State.supply]
@[simp] theorem State.supply_sched : (s.supply bs).sched = s.sched := by simp [State.supply]
@[simp] theorem State.supply_draws : (s.supply bs).draws = s.draws := by simp [State.supply]
@[simp] theorem State.supply_split : (s.supply bs).split = s.split := by simp [State.supply]
theorem State.supply_open (h : s.streamOpen = true) : s.supply bs = { s with wireIn := s.wireIn ++ bs.map .byte } := if_pos h
theorem State.supply_closed (h : s.streamOpen = false) : s.supply bs = s := if_neg (by simp [h])
end

section
variable (s : State L) (answers : List SinkAnswer)

@[simp] theorem State.offerAnswers_cfg : (s.offerAnswers answers).cfg = s.cfg := by
  unfold State.offerAnswers; split <;> rfl
@[simp] theorem State.offerAnswers_conn : (s.offerAnswers answers).conn = s.conn := by
  unfold State.offerAnswers; split <;> rfl
@[simp] theorem State.offerAnswers_streamOpen : (s.offerAnswers answers).streamOpen = s.streamOpen := by
  unfold State.offerAnswers; split <;> rfl
@[simp] theorem State.offerAnswers_cancel : (s.offerAnswers answers).cancel = s.cancel := by
  unfold State.offerAnswers; split <;> rfl
@[simp] theorem State.offerAnswers_q : (s.offerAnswers answers).q = s.q := by
  unfold State.offerAnswers; split <;> rfl
@[simp] theorem State.offerAnswers_gate : (s.offerAnswers answers).gate = s.gate := by
  unfold State.offerAnswers; split <;> rfl
@[simp] theorem State.offerAnswers_tx : (s.offerAnswers answers).tx = s.tx := by
  unfold State.offerAnswers; split <;> rfl
@[simp] theorem State.offerAnswers_rx : (s.offerAnswers answers).rx = s.rx := by
  unfold State.offerAnswers; split <;> rfl
@[simp] theorem State.offerAnswers_reg : (s.offerAnswers answers).reg = s.reg := by
  unfold State.offerAnswers; split <;> rfl
@[simp] theorem State.offerAnswers_now : (s.offerAnswers answers).now = s.now := by
  unfold State.offerAnswers; split <;> rfl
@[simp] theorem State.offerAnswers_ev : (s.offerAnswers answers).ev = s.ev := by
  unfold State.offerAnswers; split <;> rfl
@[simp] theorem State.offerAnswers_wireOut : (s.offerAnswers answers).wireOut = s.wireOut := by
  unfold State.offerAnswers; split <;> rfl
@[simp] theorem State.offerAnswers_host : (s.offerAnswers answers).host = s.host := by
  unfold State.offerAnswers; split <;> rfl
@[simp] theorem State.offerAnswers_wireIn : (s.offerAnswers answers).wireIn = s.wireIn := by
  unfold State.offerAnswers; split <;> rfl
@[simp] theorem State.offerAnswers_sinkAns : (s.offerAnswers answers).sinkAns = if s.streamOpen then s.sinkAns ++ answers else s.sinkAns := by
  unfold State.offerAnswers; split <;> rfl
@[simp] theorem State.offerAnswers_lisAns : (s.offerAnswers answers).lisAns = s.lisAns := by
  unfold State.offerAnswers; split <;> rfl
@[simp] theorem State.offerAnswers_notes : (s.offerAnswers answers).notes = s.notes := by
  unfold State.offerAnswers; split <;> rfl
@[simp] theorem State.offerAnswers_sched : (s.offerAnswers answers).sched = s.sched := by
  unfold State.offerAnswers; split <;> rfl
@[simp] theorem State.offerAnswers_draws : (s.offerAnswers answers).draws = s.draws := by
  unfold State.offerAnswers; split <;> rfl
@[simp] theorem State.offerAnswers_split : (s.offerAnswers answers).split = s.split := by
  unfold State.offerAnswers; split <;> rfl
theorem State.offerAnswers_open (h : s.streamOpen = true) :
    s.offerAnswers answers = { s with sinkAns := s.sinkAns ++ answers } := if_pos h
theorem State.offerAnswers_closed (h : s.streamOpen = false) : s.offerAnswers answers = s := if_neg (by simp [h])
end

end Sys2Proof.Machine
end

