-- ==== Sys2Proof/Laws/Ops.lean ====
section
/-! SUPPORT. One lemma for each shared operation and each meaning, saying once everything it can do: a step that is not
enabled leaves the state, an enabled one meets its condition and has its effect. -/

namespace Sys2Proof.Machine

variable {s t : State}

theorem hold_cases (e : hold s = .next t) : t = s := by simpa [hold] using e.symm

theorem issue_idle {h : Nat} {k : State → State} (hi : s.portIdle h = true) : issue h s k = .next (k s) := by
  simp [issue, hi]

theorem issue_cases {h : Nat} {k : State → State} (e : issue h s k = .next t) :
    t = s ∨ (s.portIdle h = true ∧ t = k s) := by
  unfold issue at e
  split at e
  · next hi => exact .inr ⟨hi, by simpa using e.symm⟩
  · exact .inl (hold_cases e)

theorem takeStep_take {m : Message} {rest : List Message} (h1 : s.tx.st = .take) (h2 : s.cancel = false)
    (h3 : s.q = m :: rest) : takeStep s = .next (s.takeMessage m rest) := by simp [takeStep, h1, h2, h3]

theorem takeStep_cases (e : takeStep s = .next t) :
    t = s ∨ ∃ m rest, s.tx.st = .take ∧ s.cancel = false ∧ s.q = m :: rest ∧ t = s.takeMessage m rest := by
  unfold takeStep at e
  split at e
  · next m rest h1 h2 h3 => exact .inr ⟨m, rest, h1, h2, h3, by simpa using e.symm⟩
  · exact .inl (hold_cases e)

theorem ackInsertStep_cases (e : ackInsertStep s = .next t) :
    t = s ∨ (s.rx.st = .ack ∧ s.rx.ackreq = true ∧ s.hasSpace = true ∧ t = s.insertAck) := by
  unfold ackInsertStep at e
  split at e
  · next h => exact .inr ⟨h.1, h.2.1, h.2.2, by simpa using e.symm⟩
  · exact .inl (hold_cases e)

theorem ackAbortStep_cases (e : ackAbortStep s = .next t) :
    t = s ∨ (s.rx.st = .ack ∧ s.rx.ackreq = true ∧ s.statQfull = true ∧ s.cancel = true ∧ t = s.abortAck) := by
  unfold ackAbortStep at e
  split at e
  · next h => exact .inr ⟨h.1, h.2.1, h.2.2.1, h.2.2.2, by simpa using e.symm⟩
  · exact .inl (hold_cases e)

theorem cs2Step_cases (e : cs2Step s = .next t) :
    t = s ∨ ∃ b, s.rx.st = .cs2 ∧ s.recvByte = some b ∧ t = s.finishFrame b := by
  unfold cs2Step at e
  split at e
  · next b h1 h2 => exact .inr ⟨b, h1, h2, by simpa using e.symm⟩
  · exact .inl (hold_cases e)

/-- The checks refuse, or they hold and the command goes on (46_host_ops R174). -/
theorem sendChecks_cases (s : State) (h : Nat) (op : BitVec 4) (m : Message) (k : State → State) :
    (s.conn ≠ .connected ∧ s.sendChecks h op m k = s.refuse h op .notConnected) ∨
    (s.conn = .connected ∧ 255 < m.length ∧ s.sendChecks h op m k = s.refuse h op .msgTooLong) ∨
    (s.conn = .connected ∧ m.length ≤ 255 ∧ s.sendChecks h op m k = k s) := by
  unfold State.sendChecks
  split
  · next hc => exact .inl ⟨hc, rfl⟩
  · next hc =>
    have hc' : s.conn = .connected := by simpa using hc
    split
    · next hl => exact .inr (.inl ⟨hc', hl, rfl⟩)
    · next hl => exact .inr (.inr ⟨hc', Nat.le_of_not_lt hl, rfl⟩)

/-- The insert is made at once, or the command is held (46_host_ops R173). -/
theorem insertOrHold_cases (s : State) (h : Nat) (m : Message) (c : HostCmd) :
    (s.hasSpace = true ∧ s.insertOrHold h m c = s.insertAndRespond h m) ∨ s.insertOrHold h m c = s.setCmd h c := by
  unfold State.insertOrHold
  split
  · next hs => exact .inl ⟨hs.2, rfl⟩
  · exact .inr rfl

/-- A byte is offered only by an open stream, and is the source's next symbol (44_receiver R136). -/
theorem recvByte_some {b : Byte} (e : s.recvByte = some b) :
    s.streamOpen = true ∧ ∃ rest, s.wireIn = .byte b :: rest := by
  unfold State.recvByte State.recv at e
  cases ho : s.streamOpen with
  | false => simp [ho] at e
  | true =>
    cases hw : s.wireIn with
    | nil => simp [ho, hw] at e
    | cons x rest =>
      cases x with
      | byte c => simp [ho, hw] at e; exact ⟨rfl, rest, by rw [e]⟩
      | closed => simp [ho, hw] at e
      | rdErr => simp [ho, hw] at e

theorem recvByte_cons {b : Byte} {rest : List Symbol} (ho : s.streamOpen = true) (hw : s.wireIn = .byte b :: rest) :
    s.recvByte = some b := by simp [State.recvByte, State.recv, ho, hw]

/-- What the notification offered is, and when there is one (45_dispatch R161, R165). -/
theorem offer_some {n : Notification LID} (e : s.offer = some n) :
    s.rx.st = .dispatch ∧ s.rx.snap[s.rx.idx]? = some n.lid ∧ s.rx.buf = n.payload ∧
      ∃ b rest, n.payload = b :: rest ∧ n.type6 = typeCode b := by
  unfold State.offer RxRegs.offer at e
  split at e
  · next lid b rest h1 h2 h3 =>
    cases e
    exact ⟨h1, h2, h3, b, rest, rfl, rfl⟩
  · cases e

theorem execDisconnectComplete_cases (e : execDisconnectComplete s = .next t) :
    t = s ∨ (s.conn = .closing ∧ s.tx.st = .stopped ∧ s.rx.st = .stopped ∧ t = s.completeDisconnect) := by
  unfold execDisconnectComplete at e
  split at e
  · next h => exact .inr ⟨h.1, h.2.1, h.2.2, by simpa using e.symm⟩
  · exact .inl (hold_cases e)

theorem execInsertRelease_cases {h : Nat} {op : InsertOp} (e : execInsertRelease h op s = .next t) :
    t = s ∨ ∃ c, s.hostCmd h = some c ∧ c.insertOp? = some op ∧ s.conn ≠ .connected ∧
      t = (s.respond h (refusedResponse .notConnected)).raise [.deliveryFailure h op.code] := by
  unfold execInsertRelease at e
  split at e
  · next c hc =>
    split at e
    · next hg => exact .inr ⟨c, hc, hg.1, hg.2, by simpa using e.symm⟩
    · exact .inl (hold_cases e)
  · exact .inl (hold_cases e)

theorem execAppend_cases {h : Nat} {m : Message} (e : execAppend h m s = .next t) :
    t = s ∨ ∃ c, s.hostCmd h = some c ∧ c.appendMsg? = some m ∧ s.conn = .connected ∧ s.hasSpace = true ∧
      t = s.insertAndRespond h m := by
  unfold execAppend at e
  split at e
  · next c hc =>
    split at e
    · next hg => exact .inr ⟨c, hc, hg.1, hg.2.1, hg.2.2, by simpa using e.symm⟩
    · exact .inl (hold_cases e)
  · exact .inl (hold_cases e)

theorem execAppendTimed_cases {h : Nat} {m : Message} {tMs : Nat} (e : execAppendTimed h m tMs s = .next t) :
    t = s ∨ (s.hostCmd h = some (.sendTimed m tMs) ∧ s.conn = .connected ∧
      ((s.hasSpace = true ∧ t = s.insertAndRespond h m) ∨
       (s.statQfull = true ∧ s.hostDeadline h ≤ s.now ∧
        t = (s.respond h timeoutResponse).raise [.deliveryFailure h 0x4]))) := by
  unfold execAppendTimed at e
  split at e
  · next hg =>
    split at e
    · next hs => exact .inr ⟨hg.1, hg.2, .inl ⟨hs, by simpa using e.symm⟩⟩
    · split at e
      · next hd => exact .inr ⟨hg.1, hg.2, .inr ⟨hd.1, hd.2, by simpa using e.symm⟩⟩
      · exact .inl (hold_cases e)
  · exact .inl (hold_cases e)

theorem execPrepend_cases {m : Message} (e : execPrepend m s = .next t) :
    t = s ∨ (m = ackMessage ∧ ackInsertStep s = .next t) := by
  unfold execPrepend at e
  split at e
  · next h => exact .inr ⟨h, e⟩
  · exact .inl (hold_cases e)

theorem execAckreq_cases {r : Bool} {y : BitVec 6} (e : execAckreq r y s = .next t) :
    t = s ∨ ackInsertStep s = .next t ∨ ackAbortStep s = .next t := by
  unfold execAckreq at e
  split at e
  · split at e
    · exact .inr (.inl e)
    · exact .inr (.inr e)
  · exact .inl (hold_cases e)

theorem execTypeBareAck_cases {a r : Bool} (e : execTypeBareAck a r s = .next t) :
    t = s ∨ (s.nextTypeIs (typeByte a r bareAckType) = true ∧ takeStep s = .next t) := by
  unfold execTypeBareAck at e
  split at e
  · next h => exact .inr ⟨h, e⟩
  · exact .inl (hold_cases e)

theorem execTypeExempt_cases {a r : Bool} (e : execTypeExempt a r s = .next t) :
    t = s ∨ (s.rx.typeIs (typeByte a r exemptType) = true ∧ cs2Step s = .next t) := by
  unfold execTypeExempt at e
  split at e
  · next h => exact .inr ⟨h, e⟩
  · exact .inl (hold_cases e)

theorem execNotify_cases {lid : LID} {a : ListenerAnswer} (e : execNotify lid a s = .next t) :
    t = s ∨ ∃ n, s.offer = some n ∧ s.lisAns = none ∧ n.lid = lid ∧
      t = { s with notes := s.notes ++ [(n, a)], lisAns := some a } := by
  unfold execNotify at e
  split at e
  · next n h1 h2 =>
    split at e
    · next hl => exact .inr ⟨n, h1, h2, of_decide_eq_true hl, by simpa using e.symm⟩
    · exact .inl (hold_cases e)
  · exact .inl (hold_cases e)

theorem execTReady_cases (e : execTReady s = .next t) :
    t = s ∨ (s.tx.st = .wait ∧ s.cancel = false ∧ s.gate = true ∧ t = s.consumeAtWaitExit.txGoto .take) := by
  unfold execTReady at e
  split at e
  · next h => exact .inr ⟨h.1, h.2.1, h.2.2, by simpa using e.symm⟩
  · exact .inl (hold_cases e)

theorem execTTimeout_cases (e : execTTimeout s = .next t) :
    t = s ∨ (s.tx.st = .wait ∧ s.cancel = false ∧ s.gate = false ∧ s.tx.deadline ≤ s.now ∧
      t = (s.raise [.gateTimeout]).txGoto .take) := by
  unfold execTTimeout at e
  split at e
  · next h => exact .inr ⟨h.1, h.2.1, h.2.2.1, h.2.2.2, by simpa using e.symm⟩
  · exact .inl (hold_cases e)

theorem execTCancel_cases (e : execTCancel s = .next t) :
    t = s ∨ ((s.tx.st = .wait ∨ s.tx.st = .take) ∧ s.cancel = true ∧ t = s.txStop .cancelled) := by
  unfold execTCancel at e
  split at e
  · next h => exact .inr ⟨h.1, h.2, by simpa using e.symm⟩
  · exact .inl (hold_cases e)

theorem execTEmit_cases (e : execTEmit s = .next t) :
    t = s ∨ ∃ b rest answers, s.tx.st = .send ∧ s.tx.frame = b :: rest ∧ s.streamOpen = true ∧
      s.sinkAns = .accept :: answers ∧
      t = { s with wireOut := s.wireOut ++ [b], tx := { s.tx with frame := rest }, sinkAns := answers } := by
  unfold execTEmit at e
  split at e
  · next b rest answers h1 h2 h3 h4 => exact .inr ⟨b, rest, answers, h1, h2, h3, h4, by simpa using e.symm⟩
  · exact .inl (hold_cases e)

theorem execTWrerr_cases (e : execTWrerr s = .next t) :
    t = s ∨ (s.tx.st = .send ∧ s.tx.frame ≠ [] ∧ s.streamOpen = false ∧ t = s.txStop .writeError) ∨
    ∃ answers, s.tx.st = .send ∧ s.tx.frame ≠ [] ∧ s.streamOpen = true ∧ s.sinkAns = .error :: answers ∧
      t = State.txStop { s with sinkAns := answers } .writeError := by
  unfold execTWrerr at e
  split at e
  · next b rest _ h1 h2 h3 => exact .inr (.inl ⟨h1, by simp [h2], h3, by simpa using e.symm⟩)
  · next b rest answers h1 h2 h3 h4 =>
    exact .inr (.inr ⟨answers, h1, by simp [h2], h3, h4, by simpa using e.symm⟩)
  · exact .inl (hold_cases e)

theorem execTEnd_cases (e : execTEnd s = .next t) :
    t = s ∨ (s.tx.st = .send ∧ s.tx.frame = [] ∧ t = s.endFrame) := by
  unfold execTEnd at e
  split at e
  · next h => exact .inr ⟨h.1, h.2, by simpa using e.symm⟩
  · exact .inl (hold_cases e)

theorem execRHuntSkip_cases (e : execRHuntSkip s = .next t) :
    t = s ∨ ∃ b, s.rx.st = .hunt ∧ s.recvByte = some b ∧ b ≠ 0x7E ∧ t = s.consumeSymbol := by
  unfold execRHuntSkip at e
  split at e
  · next b h1 h2 =>
    split at e
    · exact .inl (hold_cases e)
    · next hb => exact .inr ⟨b, h1, h2, hb, by simpa using e.symm⟩
  · exact .inl (hold_cases e)

theorem execRHuntFlag_cases (e : execRHuntFlag s = .next t) :
    t = s ∨ (s.rx.st = .hunt ∧ s.recvByte = some 0x7E ∧ t = s.consumeSymbol.rxGoto .len) := by
  unfold execRHuntFlag at e
  split at e
  · next b h1 h2 =>
    split at e
    · next hb => exact .inr ⟨h1, by rw [h2, hb], by simpa using e.symm⟩
    · exact .inl (hold_cases e)
  · exact .inl (hold_cases e)

theorem execRLen_cases (e : execRLen s = .next t) :
    t = s ∨ ∃ b, s.rx.st = .len ∧ s.recvByte = some b ∧ t = { s.consumeSymbol with rx := s.rx.startFrame b } := by
  unfold execRLen at e
  split at e
  · next b h1 h2 => exact .inr ⟨b, h1, h2, by simpa using e.symm⟩
  · exact .inl (hold_cases e)

theorem execRDataPlain_cases (e : execRDataPlain s = .next t) :
    t = s ∨ ∃ b, s.rx.st = .data ∧ s.rx.esc = false ∧ s.recvByte = some b ∧ b ≠ 0x7D ∧
      t = { s.consumeSymbol with rx := s.rx.accept b } := by
  unfold execRDataPlain at e
  split at e
  · next b h1 h2 h3 =>
    split at e
    · exact .inl (hold_cases e)
    · next hb => exact .inr ⟨b, h1, h2, h3, hb, by simpa using e.symm⟩
  · exact .inl (hold_cases e)

theorem execRDataEsc_cases (e : execRDataEsc s = .next t) :
    t = s ∨ (s.rx.st = .data ∧ s.rx.esc = false ∧ s.recvByte = some 0x7D ∧
      t = { s.consumeSymbol with rx := { s.rx with esc := true } }) := by
  unfold execRDataEsc at e
  split at e
  · next b h1 h2 h3 =>
    split at e
    · next hb => exact .inr ⟨h1, h2, by rw [h3, hb], by simpa using e.symm⟩
    · exact .inl (hold_cases e)
  · exact .inl (hold_cases e)

theorem execREscOk_cases (e : execREscOk s = .next t) :
    t = s ∨ ∃ b, s.rx.st = .data ∧ s.rx.esc = true ∧ s.recvByte = some b ∧ (unstuff2 b).2 = true ∧
      t = { s.consumeSymbol with rx := RxRegs.accept { s.rx with esc := false } (unstuff2 b).1 } := by
  unfold execREscOk at e
  split at e
  · next b h1 h2 h3 =>
    split at e
    · next hb => exact .inr ⟨b, h1, h2, h3, hb, by simpa using e.symm⟩
    · exact .inl (hold_cases e)
  · exact .inl (hold_cases e)

theorem execREscBad_cases (e : execREscBad s = .next t) :
    t = s ∨ ∃ b, s.rx.st = .data ∧ s.rx.esc = true ∧ s.recvByte = some b ∧ (unstuff2 b).2 = false ∧
      t = { s.consumeSymbol with
        rx := RxRegs.accept { s.rx with esc := false, serr := true } (unstuff2 b).1 } := by
  unfold execREscBad at e
  split at e
  · next b h1 h2 h3 =>
    split at e
    · exact .inl (hold_cases e)
    · next hb => exact .inr ⟨b, h1, h2, h3, by simpa using hb, by simpa using e.symm⟩
  · exact .inl (hold_cases e)

theorem execRCs1_cases (e : execRCs1 s = .next t) :
    t = s ∨ ∃ b, s.rx.st = .cs1 ∧ s.recvByte = some b ∧
      t = { s.consumeSymbol with rx := { s.rx with c1 := b, st := .cs2 } } := by
  unfold execRCs1 at e
  split at e
  · next b h1 h2 => exact .inr ⟨b, h1, h2, by simpa using e.symm⟩
  · exact .inl (hold_cases e)

theorem execRAckNone_cases (e : execRAckNone s = .next t) :
    t = s ∨ (s.rx.st = .ack ∧ s.rx.ackreq = false ∧ t = s.rxGoto .gate) := by
  unfold execRAckNone at e
  split at e
  · next h => exact .inr ⟨h.1, h.2, by simpa using e.symm⟩
  · exact .inl (hold_cases e)

theorem execRGate_cases (e : execRGate s = .next t) :
    t = s ∨ (s.rx.st = .gate ∧
      ((s.rx.ok = true ∧ 1 ≤ s.rx.len.toNat ∧ t = s.gateSet.startDispatch) ∨
       (¬ (s.rx.ok = true ∧ 1 ≤ s.rx.len.toNat) ∧ t = s.gateSet.rxGoto .hunt))) := by
  unfold execRGate at e
  split at e
  · next h =>
    split at e
    · next hv => exact .inr ⟨h, .inl ⟨hv.1, hv.2, by simpa using e.symm⟩⟩
    · next hv => exact .inr ⟨h, .inr ⟨hv, by simpa using e.symm⟩⟩
  · exact .inl (hold_cases e)

theorem execRDeliverOk_cases (e : execRDeliverOk s = .next t) :
    t = s ∨ ∃ n, s.offer = some n ∧ s.lisAns = some .accept ∧ t = s.advance := by
  unfold execRDeliverOk at e
  split at e
  · next n h1 h2 => exact .inr ⟨n, h1, h2, by simpa using e.symm⟩
  · exact .inl (hold_cases e)

theorem execRDeliverFault_cases (e : execRDeliverFault s = .next t) :
    t = s ∨ ∃ n, s.offer = some n ∧ s.lisAns = some .fault ∧
      t = (s.raise [.listenerFault n.lid n.type6]).advance := by
  unfold execRDeliverFault at e
  split at e
  · next n h1 h2 => exact .inr ⟨n, h1, h2, by simpa using e.symm⟩
  · exact .inl (hold_cases e)

theorem execRClose_cases (e : execRClose s = .next t) :
    t = s ∨ ∃ r, s.rx.st.reading = true ∧ t = s.rxClose r ∧
      ((r = .closed ∧ s.recv = some .closed) ∨ (r = .readError ∧ s.recv = some .rdErr)) := by
  unfold execRClose at e
  split at e
  · next h1 h2 => exact .inr ⟨.closed, h1, by simpa using e.symm, .inl ⟨rfl, h2⟩⟩
  · next h1 h2 => exact .inr ⟨.readError, h1, by simpa using e.symm, .inr ⟨rfl, h2⟩⟩
  · exact .inl (hold_cases e)

/-- A change of one port, said with the port it finds there. -/
theorem modify_eq_set {α : Type} (l : List α) (h : Nat) (f : α → α) {p : α} (hp : l[h]? = some p) :
    l.modify h f = l.set h (f p) := by
  apply List.ext_getElem?
  intro i
  by_cases hi : h = i
  · subst hi
    obtain ⟨hl, he⟩ := List.getElem?_eq_some_iff.mp hp
    simp [hl, he]
  · simp [hi]

theorem portIdle_of {h : Nat} {p : HostPort} (hp : s.host[h]? = some p) (hc : p.cmd = none) : s.portIdle h = true := by
  simp [State.portIdle, hp, hc]

theorem hostCmd_of {h : Nat} {p : HostPort} (hp : s.host[h]? = some p) : s.hostCmd h = p.cmd := by
  simp [State.hostCmd, hp]

end Sys2Proof.Machine
end

