-- ==== Sys2Proof/Laws/Answered.lean ====
section
/-! SUPPORT. The host-port operations in the words of the statements: what a response, a refusal, a hold and an insert do
to a port whose registers are known; and the type byte's fields. -/

namespace Sys2Proof.Machine

variable {s : State} {h : Nat} {p : HostPort}

theorem idle_port (hi : s.idleAt h p) : s.portIdle h = true := portIdle_of hi.1 hi.2

theorem respond_eq (hp : s.host[h]? = some p) (r : Response) :
    s.respond h r = s.answered h p r.status r.reason r.value := by
  simp only [State.respond, State.setHost, State.answered, modify_eq_set _ _ _ hp, HostPort.respond]

theorem refuse_eq (hp : s.host[h]? = some p) (op : BitVec 4) (r : Reason) :
    s.refuse h op r = (s.answered h p .refused r none).logged [.cmdRefused h op r] := by
  rw [State.refuse, respond_eq hp]; rfl

theorem setCmd_eq (hp : s.host[h]? = some p) (c : HostCmd) : s.setCmd h c = s.executing h p c := by
  simp [State.setCmd, State.setHost, State.executing, modify_eq_set _ _ _ hp]

theorem setDeadline_port {d : Nat} (hp : s.host[h]? = some p) :
    (s.setDeadline h d).host[h]? = some { p with deadline := d } := by
  simp [State.setDeadline, State.setHost, hp]

theorem insertAndRespond_eq (hp : s.host[h]? = some p) (m : Message) :
    s.insertAndRespond h m = State.answered { s with q := s.q ++ [m] } h p .ok .none none := by
  rw [State.insertAndRespond, respond_eq (p := p) (by simpa [State.enqueue] using hp)]
  simp [okResponse, State.enqueue]

theorem insertOrHold_inserts (hp : s.host[h]? = some p) (m : Message) (c : HostCmd)
    (hq : s.q.length < s.cfg.qcap) (hs : s.split = false) :
    s.insertOrHold h m c = State.answered { s with q := s.q ++ [m] } h p .ok .none none := by
  simp [State.insertOrHold, hs, State.hasSpace, hq, insertAndRespond_eq hp]

theorem insertOrHold_holds (hp : s.host[h]? = some p) (m : Message) (c : HostCmd)
    (hn : ¬ (s.q.length < s.cfg.qcap ∧ s.split = false)) : s.insertOrHold h m c = s.executing h p c := by
  have hg : ¬ (s.split = false ∧ s.hasSpace = true) := fun hh => hn ⟨by simpa [State.hasSpace] using hh.2, hh.1⟩
  rw [State.insertOrHold, if_neg hg, setCmd_eq hp]

theorem hostDeadline_of (hp : s.host[h]? = some p) : s.hostDeadline h = p.deadline := by
  simp [State.hostDeadline, hp]

theorem typeCode_typeByte (a r : Bool) (y : BitVec 6) : typeCode (typeByte a r y) = y.setWidth 8 := by
  revert a r y; decide

theorem ackBit_typeByte (a r : Bool) (y : BitVec 6) : ackBit (typeByte a r y) = a := by
  revert a r y; decide

theorem typeByte_fields (b : Byte) : typeByte (b.getLsbD 7) (b.getLsbD 6) (b.extractLsb' 0 6) = b := by
  revert b; decide

end Sys2Proof.Machine
end

