-- ==== Sys2Proof/Machine/Runs.lean ====
section
/-! DEFINITION. The agents, the infinite runs of the whole system, and what 00_scope R18 asks of a run where liveness is
claimed: weak fairness, and a wall clock that advances without bound. `step` itself admits every interleaving. -/

namespace Sys2Proof.Machine

/-- The agents of the block and of its environment (00_scope R6). -/
inductive Agent
  | transmitter
  | receiver
  | port (h : Nat)
  | wireSource
  | wireSink
  | wallClock
  | listener (lid : LID)
  deriving DecidableEq, Repr

/-- The instruction is a step of agent `a` in state `s` (00_scope R6). A queue-port row belongs to the agent that issues
the operation (30_encoding R80), a wire row to the wire source, and the disconnect completion to each port that waits in
DISCONNECT (46_host_ops R171, R184). -/
def isStepOf (i : Instr) (a : Agent) (s : State) : Bool :=
  match i with
  | .reserved0 h | .connect h | .disconnect h | .send h _ | .sendTimed h _ _ | .subscribe h _ | .unsubscribe h _
  | .setClock h _ _ _ _ _ _ | .querySize h | .queryFull h | .reservedA h | .reservedB h | .reservedC h | .reservedD h
  | .reservedE h | .reservedF h | .append h _ | .appendTimed h _ _ | .size h | .isFull h | .insertRelease h _ =>
    decide (a = .port h)
  | .disconnectComplete =>
    match a with
    | .port h => decide (s.hostCmd h = some .disconnect)
    | .transmitter | .receiver | .wireSource | .wireSink | .wallClock | .listener _ => false
  | .take | .typeBareAck _ _ | .tReady | .tTimeout | .tCancel | .tTake | .tEmit | .tWrerr | .tEnd =>
    decide (a = .transmitter)
  | .prepend _ | .ackreq _ _ | .typeExempt _ _ | .rHuntSkip | .rHuntFlag | .rLen | .rDataPlain | .rDataEsc | .rEscOk
  | .rEscBad | .rCs1 | .rCs2 | .rAckInsert | .rAckHold | .rAckAbort | .rAckNone | .rGate | .rDeliverOk | .rDeliverFault
  | .rClose => decide (a = .receiver)
  | .flag | .escape | .esc7E | .esc7D | .escIllegal _ | .frame _ _ _ _ => decide (a = .wireSource)
  | .notify lid _ => decide (a = .listener lid)

/-- The agents that weak fairness schedules (00_scope R18): the two loops, and a host port that is executing a command.
What the spec leaves to the environment is not asked for: an idle port may issue nothing (46_host_ops R167), the wire source
may offer nothing (44_receiver R136), the wire sink may not answer (43_transmitter R127), a listener may never answer
(45_dispatch R164). The wall clock has a clause of its own (DEDUCED, log 22). -/
def Agent.scheduled (a : Agent) (s : State) : Bool :=
  match a with
  | .transmitter => true
  | .receiver => true
  | .port h => (s.hostCmd h).isSome
  | .wireSource => false
  | .wireSink => false
  | .wallClock => false
  | .listener _ => false

/-- Agent `a` has an enabled step that weak fairness is about (00_scope R17, R18). -/
def enabled (a : Agent) (s : State) : Prop :=
  a.scheduled s = true ∧ ∃ i : Instr, isStepOf i a s = true ∧ moves s i = true

/-- The choice `c` lets agent `a` take one of its enabled steps. -/
def takes (a : Agent) (c : Choice) (s : State) : Prop :=
  ∃ split p i, c = .act split p ∧ decode p = .ok i ∧ isStepOf i a s = true ∧ moves (s.withSplit split) i = true

/-- An infinite run: in state `ρ n` the environment makes the choice `c n`, and the step answers `ρ (n + 1)` (00_scope
R18). -/
def IsRun (c : Nat → Choice) (ρ : Nat → State) : Prop := ∀ n, step ((ρ n).choosing (c n)) = .next (ρ (n + 1))

/-- Weak fairness: an agent whose step stays enabled is eventually scheduled (00_scope R18). -/
def WeaklyFair (c : Nat → Choice) (ρ : Nat → State) : Prop :=
  ∀ a n, (∀ m, n ≤ m → enabled a (ρ m)) → ∃ m, n ≤ m ∧ takes a (c m) (ρ m)

/-- The wall clock advances without bound (00_scope R18). -/
def ClockUnbounded (ρ : Nat → State) : Prop := ∀ ms, ∃ n, ms ≤ (ρ n).now

/-- The runs that the liveness rules speak of (00_scope R18). -/
structure FairRun (c : Nat → Choice) (ρ : Nat → State) : Prop where
  run : IsRun c ρ
  fair : WeaklyFair c ρ
  clock : ClockUnbounded ρ

end Sys2Proof.Machine
end

