-- ==== Sys2Proof/Laws/Fairness.lean ====
section
/-! SUPPORT. What the runs of 00_scope R18 give: the clock never goes back along a run, and 42_gate R121, that in a fair run
a waiting Transmitter leaves TX_WAIT. -/

namespace Sys2Proof.Machine

variable {s t : State}

@[simp] theorem State.choosing_fetch (s : State) (c : Choice) : (s.choosing c).fetch = c := rfl
@[simp] theorem State.choosing_fetched (s : State) (c : Choice) : (s.choosing c).fetched = s := rfl

/-- The free stream is one such environment: an empty `sched` answers as the choice `Config.environment` names. -/
theorem step_environment (h : s.sched = []) : step s = step (s.drawn.choosing (Config.environment s.draws)) := by
  have h1 : s.fetch = Config.environment s.draws := by simp only [State.fetch, h]
  have h2 : s.fetched = s.drawn := by simp only [State.fetched, h]
  simp only [step, h1, h2, State.choosing_fetch, State.choosing_fetched]

/-- What a chosen step can do: one instruction, or one of the environment's own steps. -/
theorem step_choosing_cases {c : Choice} (e : step (s.choosing c) = .next t) :
    (∃ split p i, c = .act split p ∧ decode p = .ok i ∧ exec i (s.withSplit split) = .next t) ∨
    (∃ ms, c = .clock ms ∧ t = s.tick ms) ∨ (∃ xs, c = .wire xs ∧ t = s.offerSymbols xs) ∨
    (c = .wireLost ∧ t = s.dropSymbols) ∨ (∃ l, c = .sink l ∧ t = s.offerAnswers l) ∨
    (c = .sinkLost ∧ t = s.dropAnswers) := by
  simp only [step, State.choosing_fetch, State.choosing_fetched] at e
  split at e
  · next split p =>
    split at e
    · next i hd => exact .inl ⟨split, p, i, rfl, hd, e⟩
    · next r _ => cases r <;> cases e
  · next ms => exact .inr (.inl ⟨ms, rfl, by simpa using e.symm⟩)
  · next xs => exact .inr (.inr (.inl ⟨xs, rfl, by simpa using e.symm⟩))
  · exact .inr (.inr (.inr (.inl ⟨rfl, by simpa using e.symm⟩)))
  · next l => exact .inr (.inr (.inr (.inr (.inl ⟨l, rfl, by simpa using e.symm⟩))))
  · exact .inr (.inr (.inr (.inr (.inr ⟨rfl, by simpa using e.symm⟩))))

/-- What one instruction can do to a Transmitter that waits in a connection: the clock stands, the connection does not end,
and the Transmitter keeps its registers or leaves TX_WAIT (42_gate R121; 46_host_ops R168, R171). -/
def WaitKept (s t : State) : Prop :=
  t.now = s.now ∧ t.conn ≠ .disconnected ∧ (t.tx = s.tx ∨ t.tx.st ≠ .wait)

/-- A step that touches neither the clock nor the connection nor the Transmitter. -/
theorem WaitKept.same (hc : s.conn ≠ .disconnected) (h1 : t.now = s.now) (h2 : t.conn = s.conn) (h3 : t.tx = s.tx) :
    WaitKept s t := ⟨h1, h2 ▸ hc, .inl h3⟩

theorem WaitKept.refl (hc : s.conn ≠ .disconnected) : WaitKept s s := ⟨rfl, hc, .inl rfl⟩

variable {k : State → State} {h : Nat}

/-- A host command keeps a waiting Transmitter if what it does at an idle port does. -/
theorem issue_waitKept (hc : s.conn ≠ .disconnected) (hk : WaitKept s (k s)) (e : issue h s k = .next t) :
    WaitKept s t := by
  rcases issue_cases e with rfl | ⟨-, rfl⟩
  · exact .refl hc
  · exact hk

theorem sendIssue_waitKept (hc : s.conn ≠ .disconnected) (op : BitVec 4) (m : Message) (c : HostCmd) :
    WaitKept s (s.sendIssue h op m c) := by
  unfold State.sendIssue
  rcases sendChecks_cases s h op m fun t => t.insertOrHold h m c with ⟨-, e⟩ | ⟨-, -, e⟩ | ⟨-, -, e⟩ <;> rw [e]
  · exact ⟨rfl, hc, .inl rfl⟩
  · exact ⟨rfl, hc, .inl rfl⟩
  · rcases insertOrHold_cases s h m c with ⟨-, e⟩ | e <;> rw [e] <;> exact ⟨rfl, hc, .inl rfl⟩

theorem takeStep_waitKept (hw : s.tx.st = .wait) (hc : s.conn ≠ .disconnected) (e : takeStep s = .next t) :
    WaitKept s t := by
  rcases takeStep_cases e with rfl | ⟨m, rest, h1, -⟩
  · exact .refl hc
  · rw [hw] at h1; cases h1

theorem ackInsertStep_waitKept (hc : s.conn ≠ .disconnected) (e : ackInsertStep s = .next t) : WaitKept s t := by
  rcases ackInsertStep_cases e with rfl | ⟨-, -, -, rfl⟩
  · exact .refl hc
  · exact ⟨rfl, hc, .inl rfl⟩

theorem ackAbortStep_waitKept (hc : s.conn ≠ .disconnected) (e : ackAbortStep s = .next t) : WaitKept s t := by
  rcases ackAbortStep_cases e with rfl | ⟨-, -, -, -, rfl⟩
  · exact .refl hc
  · exact ⟨rfl, hc, .inl rfl⟩

theorem cs2Step_waitKept (hc : s.conn ≠ .disconnected) (e : cs2Step s = .next t) : WaitKept s t := by
  rcases cs2Step_cases e with rfl | ⟨b, -, -, rfl⟩
  · exact .refl hc
  · exact .same hc (by simp) (by simp) (by simp)

/-- The host commands (46_host_ops R168 to R182). -/
theorem command_waitKept (hc : s.conn ≠ .disconnected) :
    (∀ op, WaitKept s (s.refuse h op .reservedOp)) ∧
    WaitKept s (if s.conn = .disconnected then s.connect.respond h okResponse else s.refuse h 0x1 .alreadyConnected) ∧
    WaitKept s
      (match s.conn with
        | .connected => s.startClosing.setCmd h .disconnect
        | .disconnected => s.respond h okResponse
        | .closing => s.setCmd h .disconnect) := by
  refine ⟨fun op => ⟨rfl, hc, .inl rfl⟩, ?_, ?_⟩
  · rw [if_neg hc]; exact ⟨rfl, hc, .inl rfl⟩
  · split
    · exact ⟨rfl, by simp [State.startClosing], .inl rfl⟩
    · exact ⟨rfl, hc, .inl rfl⟩
    · exact ⟨rfl, hc, .inl rfl⟩

/-- Every instruction keeps a waiting Transmitter, or lets it leave TX_WAIT. -/
theorem exec_waitKept {i : Instr} (hw : s.tx.st = .wait) (hc : s.conn ≠ .disconnected) (e : exec i s = .next t) :
    WaitKept s t := by
  have reserved : ∀ {h op}, reservedCommand h op s = .next t → WaitKept s t := fun e =>
    issue_waitKept hc ((command_waitKept hc).1 _) e
  cases i
  case reserved0 => exact reserved e
  case connect =>
    dsimp only [exec, execConnect] at e
    refine issue_waitKept hc ?_ e
    exact (command_waitKept hc).2.1
  case disconnect =>
    dsimp only [exec, execDisconnect] at e
    refine issue_waitKept hc ?_ e
    exact (command_waitKept hc).2.2
  case send =>
    dsimp only [exec, execSend] at e
    refine issue_waitKept hc ?_ e
    exact sendIssue_waitKept hc _ _ _
  case sendTimed =>
    dsimp only [exec, execSendTimed] at e
    refine issue_waitKept hc ?_ e
    rename_i h m ms
    rcases sendChecks_cases s h 0x4 m fun u => (u.setDeadline h (u.now + ms)).insertOrHold h m (.sendTimed m ms) with
      ⟨-, e⟩ | ⟨-, -, e⟩ | ⟨-, -, e⟩ <;> rw [e]
    · exact ⟨rfl, hc, .inl rfl⟩
    · exact ⟨rfl, hc, .inl rfl⟩
    · rcases insertOrHold_cases (s.setDeadline h (s.now + ms)) h m (.sendTimed m ms) with ⟨-, e⟩ | e <;> rw [e] <;>
        exact ⟨rfl, hc, .inl rfl⟩
  case subscribe =>
    dsimp only [exec, execSubscribe] at e
    refine issue_waitKept hc ?_ e
    split
    · exact ⟨rfl, hc, .inl rfl⟩
    · split <;> exact ⟨rfl, hc, .inl rfl⟩
  case unsubscribe =>
    dsimp only [exec, execUnsubscribe] at e
    refine issue_waitKept hc ?_ e
    exact ⟨rfl, hc, .inl rfl⟩
  case setClock =>
    dsimp only [exec, execSetClock] at e
    refine issue_waitKept hc ?_ e
    split
    · exact sendIssue_waitKept hc _ _ _
    · split <;> exact ⟨rfl, hc, .inl rfl⟩
  case querySize =>
    dsimp only [exec, execQuerySize, sizeQuery] at e
    refine issue_waitKept hc ?_ e
    exact ⟨rfl, hc, .inl rfl⟩
  case queryFull =>
    dsimp only [exec, execQueryFull, fullQuery] at e
    refine issue_waitKept hc ?_ e
    exact ⟨rfl, hc, .inl rfl⟩
  case reservedA => exact reserved e
  case reservedB => exact reserved e
  case reservedC => exact reserved e
  case reservedD => exact reserved e
  case reservedE => exact reserved e
  case reservedF => exact reserved e
  case append =>
    rcases execAppend_cases e with rfl | ⟨c, -, -, -, -, rfl⟩
    · exact .refl hc
    · exact ⟨rfl, hc, .inl rfl⟩
  case appendTimed =>
    rcases execAppendTimed_cases e with rfl | ⟨-, -, ⟨-, rfl⟩ | ⟨-, -, rfl⟩⟩
    · exact .refl hc
    · exact ⟨rfl, hc, .inl rfl⟩
    · exact ⟨rfl, hc, .inl rfl⟩
  case prepend =>
    rcases execPrepend_cases e with rfl | ⟨-, e⟩
    · exact .refl hc
    · exact ackInsertStep_waitKept hc e
  case take => exact takeStep_waitKept hw hc e
  case size =>
    dsimp only [exec, execSize, sizeQuery] at e
    refine issue_waitKept hc ?_ e
    exact ⟨rfl, hc, .inl rfl⟩
  case isFull =>
    dsimp only [exec, execIsFull, fullQuery] at e
    refine issue_waitKept hc ?_ e
    exact ⟨rfl, hc, .inl rfl⟩
  case flag => cases e; exact .same hc (by simp) (by simp) (by simp)
  case escape => cases e; exact .same hc (by simp) (by simp) (by simp)
  case esc7E => cases e; exact .same hc (by simp) (by simp) (by simp)
  case esc7D => cases e; exact .same hc (by simp) (by simp) (by simp)
  case escIllegal => cases e; exact .same hc (by simp) (by simp) (by simp)
  case frame => cases e; exact .same hc (by simp) (by simp) (by simp)
  case ackreq =>
    rcases execAckreq_cases e with rfl | e | e
    · exact .refl hc
    · exact ackInsertStep_waitKept hc e
    · exact ackAbortStep_waitKept hc e
  case typeBareAck =>
    rcases execTypeBareAck_cases e with rfl | ⟨-, e⟩
    · exact .refl hc
    · exact takeStep_waitKept hw hc e
  case typeExempt =>
    rcases execTypeExempt_cases e with rfl | ⟨-, e⟩
    · exact .refl hc
    · exact cs2Step_waitKept hc e
  case notify =>
    rcases execNotify_cases e with rfl | ⟨n, -, -, -, rfl⟩
    · exact .refl hc
    · exact ⟨rfl, hc, .inl rfl⟩
  case tReady =>
    rcases execTReady_cases e with rfl | ⟨-, -, -, rfl⟩
    · exact .refl hc
    · exact ⟨rfl, hc, .inr (by simp [State.txGoto])⟩
  case tTimeout =>
    rcases execTTimeout_cases e with rfl | ⟨-, -, -, -, rfl⟩
    · exact .refl hc
    · exact ⟨rfl, hc, .inr (by simp [State.txGoto])⟩
  case tCancel =>
    rcases execTCancel_cases e with rfl | ⟨-, -, rfl⟩
    · exact .refl hc
    · exact ⟨rfl, hc, .inr (by simp [State.txStop, State.txGoto])⟩
  case tTake => exact takeStep_waitKept hw hc e
  case tEmit =>
    rcases execTEmit_cases e with rfl | h
    · exact .refl hc
    · simp [hw] at h
  case tWrerr =>
    rcases execTWrerr_cases e with rfl | h
    · exact .refl hc
    · simp [hw] at h
  case tEnd =>
    rcases execTEnd_cases e with rfl | h
    · exact .refl hc
    · simp [hw] at h
  case rHuntSkip =>
    rcases execRHuntSkip_cases e with rfl | ⟨b, -, -, -, rfl⟩
    · exact .refl hc
    · exact .same hc (by simp) (by simp) (by simp)
  case rHuntFlag =>
    rcases execRHuntFlag_cases e with rfl | ⟨-, -, rfl⟩
    · exact .refl hc
    · exact .same hc (by simp) (by simp) (by simp)
  case rLen =>
    rcases execRLen_cases e with rfl | ⟨b, -, -, rfl⟩
    · exact .refl hc
    · exact .same hc (by simp) (by simp) (by simp)
  case rDataPlain =>
    rcases execRDataPlain_cases e with rfl | ⟨b, -, -, -, -, rfl⟩
    · exact .refl hc
    · exact .same hc (by simp) (by simp) (by simp)
  case rDataEsc =>
    rcases execRDataEsc_cases e with rfl | ⟨-, -, -, rfl⟩
    · exact .refl hc
    · exact .same hc (by simp) (by simp) (by simp)
  case rEscOk =>
    rcases execREscOk_cases e with rfl | ⟨b, -, -, -, -, rfl⟩
    · exact .refl hc
    · exact .same hc (by simp) (by simp) (by simp)
  case rEscBad =>
    rcases execREscBad_cases e with rfl | ⟨b, -, -, -, -, rfl⟩
    · exact .refl hc
    · exact .same hc (by simp) (by simp) (by simp)
  case rCs1 =>
    rcases execRCs1_cases e with rfl | ⟨b, -, -, rfl⟩
    · exact .refl hc
    · exact .same hc (by simp) (by simp) (by simp)
  case rCs2 => exact cs2Step_waitKept hc e
  case rAckInsert => exact ackInsertStep_waitKept hc e
  case rAckHold =>
    rw [show t = s from hold_cases e]
    exact .refl hc
  case rAckAbort => exact ackAbortStep_waitKept hc e
  case rAckNone =>
    rcases execRAckNone_cases e with rfl | ⟨-, -, rfl⟩
    · exact .refl hc
    · exact ⟨rfl, hc, .inl rfl⟩
  case rGate =>
    rcases execRGate_cases e with rfl | ⟨-, ⟨-, -, rfl⟩ | ⟨-, rfl⟩⟩
    · exact .refl hc
    · exact ⟨rfl, hc, .inl rfl⟩
    · exact ⟨rfl, hc, .inl rfl⟩
  case rDeliverOk =>
    rcases execRDeliverOk_cases e with rfl | ⟨n, -, -, rfl⟩
    · exact .refl hc
    · exact ⟨rfl, hc, .inl rfl⟩
  case rDeliverFault =>
    rcases execRDeliverFault_cases e with rfl | ⟨n, -, -, rfl⟩
    · exact .refl hc
    · exact ⟨rfl, hc, .inl rfl⟩
  case rClose =>
    rcases execRClose_cases e with rfl | ⟨r, -, rfl, -⟩
    · exact .refl hc
    · exact .same hc (by simp) (by simp) (by simp)
  case disconnectComplete =>
    rcases execDisconnectComplete_cases e with rfl | h
    · exact .refl hc
    · simp [hw] at h
  case insertRelease =>
    rcases execInsertRelease_cases e with rfl | ⟨c, -, -, -, rfl⟩
    · exact .refl hc
    · exact ⟨rfl, hc, .inl rfl⟩

/-- A step that moves answers another state. -/
theorem moves_next {i : Instr} (h : moves s i = true) : ∃ t, exec i s = .next t ∧ t ≠ s := by
  unfold moves at h
  split at h
  · next t e => exact ⟨t, e, of_decide_eq_true h⟩
  · cases h

/-- A step answers another state, so it moves. -/
theorem moves_of {i : Instr} (e : exec i s = .next t) (h : t.tx.st ≠ s.tx.st) : moves s i = true := by
  simp only [moves, e, decide_eq_true_eq]
  exact fun ht => h (by rw [ht])

/-- A waiting Transmitter whose deadline has passed has an enabled step (42_gate R118, R121). -/
theorem enabled_of_wait (hw : s.tx.st = .wait) (hd : s.tx.deadline ≤ s.now) : enabled .transmitter s := by
  refine ⟨rfl, ?_⟩
  by_cases hcan : s.cancel = true
  · exact ⟨.tCancel, rfl, moves_of (t := s.txStop .cancelled) (by simp [exec, execTCancel, hw, hcan])
      (by simp [State.txStop, State.txGoto, hw])⟩
  · have hcan : s.cancel = false := by simpa using hcan
    by_cases hg : s.gate = true
    · exact ⟨.tReady, rfl, moves_of (t := s.consumeAtWaitExit.txGoto .take) (by simp [exec, execTReady, hw, hcan, hg])
        (by simp [State.txGoto, hw])⟩
    · have hg : s.gate = false := by simpa using hg
      exact ⟨.tTimeout, rfl, moves_of (t := (s.raise [.gateTimeout]).txGoto .take)
        (by simp [exec, execTTimeout, hw, hcan, hg, hd]) (by simp [State.txGoto, hw])⟩

/-- A step of the Transmitter that moves from TX_WAIT leaves it (43_transmitter R123 to R125). -/
theorem transmitter_leaves {i : Instr} (hi : isStepOf i .transmitter s = true) (hw : s.tx.st = .wait) (hn : t ≠ s)
    (e : exec i s = .next t) : t.tx.st ≠ .wait := by
  have noTake : takeStep s = .next t → False := fun e => by
    rcases takeStep_cases e with rfl | ⟨m, rest, h1, -⟩
    · exact hn rfl
    · rw [hw] at h1; cases h1
  cases i <;> simp only [isStepOf, decide_eq_true_eq, reduceCtorEq, Bool.false_eq_true] at hi
  case take => exact (noTake e).elim
  case tTake => exact (noTake e).elim
  case typeBareAck =>
    rcases execTypeBareAck_cases e with rfl | ⟨-, e⟩
    · exact (hn rfl).elim
    · exact (noTake e).elim
  case tReady =>
    rcases execTReady_cases e with rfl | ⟨-, -, -, rfl⟩
    · exact (hn rfl).elim
    · simp [State.txGoto]
  case tTimeout =>
    rcases execTTimeout_cases e with rfl | ⟨-, -, -, -, rfl⟩
    · exact (hn rfl).elim
    · simp [State.txGoto]
  case tCancel =>
    rcases execTCancel_cases e with rfl | ⟨-, -, rfl⟩
    · exact (hn rfl).elim
    · simp [State.txStop, State.txGoto]
  case tEmit =>
    rcases execTEmit_cases e with rfl | h
    · exact (hn rfl).elim
    · simp [hw] at h
  case tWrerr =>
    rcases execTWrerr_cases e with rfl | h
    · exact (hn rfl).elim
    · simp [hw] at h
  case tEnd =>
    rcases execTEnd_cases e with rfl | h
    · exact (hn rfl).elim
    · simp [hw] at h

variable {c : Nat → Choice} {ρ : Nat → State}

/-- One step of a run from a waiting Transmitter: the clock does not go back, the connection does not end, and the
Transmitter keeps its registers or leaves TX_WAIT. -/
theorem run_waitKept (hr : IsRun c ρ) {n : Nat} (hw : (ρ n).tx.st = .wait) (hc : (ρ n).conn ≠ .disconnected) :
    (ρ n).now ≤ (ρ (n + 1)).now ∧ (ρ (n + 1)).conn ≠ .disconnected ∧
      ((ρ (n + 1)).tx = (ρ n).tx ∨ (ρ (n + 1)).tx.st ≠ .wait) := by
  rcases step_choosing_cases (hr n) with
    ⟨split, p, i, -, -, e⟩ | ⟨ms, -, e⟩ | ⟨xs, -, e⟩ | ⟨-, e⟩ | ⟨l, -, e⟩ | ⟨-, e⟩
  · have h := exec_waitKept (s := (ρ n).withSplit split) hw hc e
    exact ⟨h.1.ge, h.2⟩
  all_goals rw [e]
  · exact ⟨Nat.le_add_right _ _, hc, .inl rfl⟩
  all_goals exact ⟨(by simp), (by simpa using hc), .inl (by simp)⟩

/-- The clock has a largest reading before state `n`. -/
theorem now_bounded (ρ : Nat → State) (n : Nat) : ∃ b, ∀ m, m < n → (ρ m).now ≤ b := by
  induction n with
  | zero => exact ⟨0, fun m h => absurd h (Nat.not_lt_zero m)⟩
  | succ n ih =>
    obtain ⟨b, hb⟩ := ih
    refine ⟨max b (ρ n).now, fun m hm => ?_⟩
    rcases Nat.lt_succ_iff_lt_or_eq.mp hm with h | rfl
    · exact (hb m h).trans (Nat.le_max_left _ _)
    · exact Nat.le_max_right _ _

/-- 42_gate R121: in a fair run a Transmitter that waits in a connection leaves TX_WAIT, whatever the gate does. -/
theorem FairRun.leaves_wait (hf : FairRun c ρ) {n : Nat} (hw : (ρ n).tx.st = .wait)
    (hc : (ρ n).conn ≠ .disconnected) : ∃ m, n < m ∧ (ρ m).tx.st ≠ .wait := by
  by_contra hno
  have stay : ∀ m, n < m → (ρ m).tx.st = .wait := fun m hm => by
    by_contra h; exact hno ⟨m, hm, h⟩
  have keep : ∀ k, (ρ (n + k)).conn ≠ .disconnected ∧ (ρ (n + k)).tx = (ρ n).tx ∧ (ρ n).now ≤ (ρ (n + k)).now := by
    intro k
    induction k with
    | zero => exact ⟨hc, rfl, Nat.le_refl _⟩
    | succ k ih =>
      obtain ⟨h1, h2, h3⟩ := run_waitKept hf.run (n := n + k) (by rw [ih.2.1, hw]) ih.1
      rcases h3 with h3 | h3
      · exact ⟨h2, h3.trans ih.2.1, ih.2.2.trans h1⟩
      · exact (h3 (stay _ (by omega))).elim
  have mono : ∀ k j, (ρ (n + k)).now ≤ (ρ (n + k + j)).now := by
    intro k j
    induction j with
    | zero => exact Nat.le_refl _
    | succ j ih =>
      have hk := keep (k + j)
      rw [← Nat.add_assoc] at hk
      exact ih.trans (run_waitKept hf.run (by rw [hk.2.1, hw]) hk.1).1
  obtain ⟨k, hk⟩ : ∃ k, (ρ n).tx.deadline ≤ (ρ (n + k)).now := by
    obtain ⟨b, hb⟩ := now_bounded ρ n
    obtain ⟨m, hm⟩ := hf.clock (max (ρ n).tx.deadline (b + 1))
    have hnm : n ≤ m := by
      by_contra h
      have := hb m (by omega)
      omega
    exact ⟨m - n, by rw [Nat.add_sub_cancel' hnm]; omega⟩
  obtain ⟨m, hm, split, p, i, hcm, hd, hi, hmv⟩ := hf.fair .transmitter (n + k) fun m hm => by
    obtain ⟨j, rfl⟩ := Nat.exists_eq_add_of_le hm
    have h2 := (keep (k + j)).2.1
    rw [← Nat.add_assoc] at h2
    exact enabled_of_wait (by rw [h2, hw]) (by rw [h2]; exact hk.trans (mono k j))
  obtain ⟨t, e, hne⟩ := moves_next hmv
  have hstep := hf.run m
  simp only [hcm, step, State.choosing_fetch, State.choosing_fetched, hd, e, Host.Outcome.next.injEq] at hstep
  obtain ⟨j, rfl⟩ := Nat.exists_eq_add_of_le hm
  have hwm : (ρ (n + k + j)).tx.st = .wait := by rw [Nat.add_assoc, (keep (k + j)).2.1, hw]
  refine transmitter_leaves (s := (ρ (n + k + j)).withSplit split) ?_ hwm hne e (hstep ▸ stay _ (by omega))
  cases i <;> exact hi

/-! ### A fair run -/

/-- A step that holds does not move. -/
theorem not_moves {i : Instr} (e : exec i s = .next s) : moves s i = false := by simp [moves, e]

/-- A Transmitter in TX_TAKE with an empty queue, not cancelled, has no enabled step (41_queue R105). -/
theorem transmitter_quiet (h1 : s.tx.st = .take) (h2 : s.cancel = false) (h3 : s.q = []) : ¬ enabled .transmitter s := by
  rintro ⟨-, i, hi, hm⟩
  rw [not_moves (i := i) ?_] at hm
  · cases hm
  cases i <;> simp only [isStepOf, decide_eq_true_eq, reduceCtorEq, Bool.false_eq_true] at hi <;>
    simp [exec, execTake, execTypeBareAck, execTReady, execTTimeout, execTCancel, execTTake, execTEmit, execTWrerr,
      execTEnd, takeStep, State.nextTypeIs, hold, h1, h2, h3]

/-- A Receiver in RX_HUNT that is offered no symbol has no enabled step (44_receiver R136). -/
theorem receiver_quiet (h1 : s.rx.st = .hunt) (h2 : s.recv = none) : ¬ enabled .receiver s := by
  have h3 : s.recvByte = none := by simp [State.recvByte, h2]
  have h4 : s.offer = none := by simp [State.offer, RxRegs.offer, h1]
  rintro ⟨-, i, hi, hm⟩
  rw [not_moves (i := i) ?_] at hm
  · cases hm
  cases i <;> simp only [isStepOf, decide_eq_true_eq, reduceCtorEq, Bool.false_eq_true] at hi <;>
    simp [exec, execPrepend, execAckreq, execTypeExempt, execRHuntSkip, execRHuntFlag, execRLen, execRDataPlain,
      execRDataEsc, execREscOk, execREscBad, execRCs1, execRCs2, execRAckInsert, execRAckHold, execRAckAbort, execRAckNone,
      execRGate, execRDeliverOk, execRDeliverFault, execRClose, ackInsertStep, ackAbortStep, cs2Step, hold, h1, h2, h3,
      h4]

/-- The block connected by port 0 from reset, its Transmitter ready to take. -/
def connectedIdle : State := ((State.reset.connect).respond 0 okResponse).consumeAtWaitExit.txGoto .take

/-- The states of a run: reset, connected, then the wall clock alone moves. -/
def idleRun : Nat → State
  | 0 => .reset
  | 1 => State.reset.connect.respond 0 okResponse
  | n + 2 => connectedIdle.tick n

/-- The choices of that run. -/
def idleChoices : Nat → Choice
  | 0 => .act false (encode (.connect 0))
  | 1 => .act false (encode .tReady)
  | _ + 2 => .clock 1

theorem port_quiet (n h : Nat) : ¬ enabled (.port h) (connectedIdle.tick n) := by
  rintro ⟨hs, -⟩
  have : (connectedIdle.tick n).hostCmd h = none := by
    match h with
    | 0 => rfl
    | 1 => rfl
    | 2 => rfl
    | _ + 3 => rfl
  simp [Agent.scheduled, this] at hs

/-- A fair run exists, with a Transmitter that waits in a connection: the premises of `FairRun.leaves_wait` are met. -/
theorem idleRun_fair : FairRun idleChoices idleRun ∧ (idleRun 1).tx.st = .wait ∧ (idleRun 1).conn ≠ .disconnected := by
  refine ⟨⟨?_, ?_, fun ms => ⟨ms + 2, Nat.le_add_left _ _⟩⟩, rfl, by decide⟩
  · intro n
    match n with
    | 0 => rfl
    | 1 => rfl
    | _ + 2 => rfl
  · intro a n hen
    have h := hen (n + 2) (by omega)
    refine absurd h ?_
    cases a with
    | transmitter => exact transmitter_quiet rfl rfl rfl
    | receiver => exact receiver_quiet rfl rfl
    | port k => exact port_quiet n k
    | wireSource => exact fun h => absurd h.1 (by simp [Agent.scheduled])
    | wireSink => exact fun h => absurd h.1 (by simp [Agent.scheduled])
    | wallClock => exact fun h => absurd h.1 (by simp [Agent.scheduled])
    | listener lid => exact fun h => absurd h.1 (by simp [Agent.scheduled])

end Sys2Proof.Machine
end

