-- ==== Sys2Proof/Laws/PerInstr.lean ====
section
/-! SUPPORT. The statements made for every instruction, one lemma each: the encoder writes the fixed bits of the
instruction's row of spec/opcode_table.json. -/

namespace Sys2Proof.Laws

/-- The fixed bits of each row of spec/opcode_table.json: format, match, mask. NOTIFY and INSERT_RELEASE have none there. -/
def tableRow (i : Instr) : Option (Format × Nat × Nat) :=
  match i with
  | .reserved0 _ => some (.hostcmd, 0x0, 0xF)
  | .connect _ => some (.hostcmd, 0x1, 0xF)
  | .disconnect _ => some (.hostcmd, 0x2, 0xF)
  | .send _ _ => some (.hostcmd, 0x3, 0xF)
  | .sendTimed _ _ _ => some (.hostcmd, 0x4, 0xF)
  | .subscribe _ _ => some (.hostcmd, 0x5, 0xF)
  | .unsubscribe _ _ => some (.hostcmd, 0x6, 0xF)
  | .setClock _ _ _ _ _ _ _ => some (.hostcmd, 0x7, 0xF)
  | .querySize _ => some (.hostcmd, 0x8, 0xF)
  | .queryFull _ => some (.hostcmd, 0x9, 0xF)
  | .reservedA _ => some (.hostcmd, 0xA, 0xF)
  | .reservedB _ => some (.hostcmd, 0xB, 0xF)
  | .reservedC _ => some (.hostcmd, 0xC, 0xF)
  | .reservedD _ => some (.hostcmd, 0xD, 0xF)
  | .reservedE _ => some (.hostcmd, 0xE, 0xF)
  | .reservedF _ => some (.hostcmd, 0xF, 0xF)
  | .append _ _ => some (.qport, 0x0, 0x7)
  | .appendTimed _ _ _ => some (.qport, 0x1, 0x7)
  | .prepend _ => some (.qport, 0x2, 0x7)
  | .take => some (.qport, 0x3, 0x7)
  | .size _ => some (.qport, 0x4, 0x7)
  | .isFull _ => some (.qport, 0x5, 0x7)
  | .flag => some (.wire, 0x7E, 0xFF)
  | .escape => some (.wire, 0x7D, 0xFF)
  | .esc7E => some (.wire2, 0x7D5E, 0xFFFF)
  | .esc7D => some (.wire2, 0x7D5D, 0xFFFF)
  | .escIllegal _ => some (.wire2, 0x7D00, 0xFF00)
  | .frame _ _ _ _ => some (.frame, 0x7E, 0xFF)
  | .ackreq _ _ => some (.type, 0x80, 0x80)
  | .typeBareAck _ _ => some (.type, 0x1D, 0x3F)
  | .typeExempt _ _ => some (.type, 0x05, 0x3F)
  | .notify _ _ => none
  | .tReady => some (.txstep, 0x1, 0x7)
  | .tTimeout => some (.txstep, 0x1, 0x7)
  | .tCancel => some (.txstep, 0x1, 0x7)
  | .tTake => some (.txstep, 0x2, 0x7)
  | .tEmit => some (.txstep, 0x3, 0x7)
  | .tWrerr => some (.txstep, 0x3, 0x7)
  | .tEnd => some (.txstep, 0x3, 0x7)
  | .rHuntSkip => some (.rxstep, 0x1, 0xF)
  | .rHuntFlag => some (.rxstep, 0x1, 0xF)
  | .rLen => some (.rxstep, 0x2, 0xF)
  | .rDataPlain => some (.rxstep, 0x3, 0xF)
  | .rDataEsc => some (.rxstep, 0x3, 0xF)
  | .rEscOk => some (.rxstep, 0x3, 0xF)
  | .rEscBad => some (.rxstep, 0x3, 0xF)
  | .rCs1 => some (.rxstep, 0x4, 0xF)
  | .rCs2 => some (.rxstep, 0x5, 0xF)
  | .rAckInsert => some (.rxstep, 0x6, 0xF)
  | .rAckHold => some (.rxstep, 0x6, 0xF)
  | .rAckAbort => some (.rxstep, 0x6, 0xF)
  | .rAckNone => some (.rxstep, 0x6, 0xF)
  | .rGate => some (.rxstep, 0x7, 0xF)
  | .rDeliverOk => some (.rxstep, 0x8, 0xF)
  | .rDeliverFault => some (.rxstep, 0x8, 0xF)
  | .rClose => some (.rxstep, 0x1, 0xF)
  | .disconnectComplete => some (.hoststep, 0x2, 0xF)
  | .insertRelease _ _ => none

/-- The word of a packet's code as the opcode table writes it: of an escape pair the escape byte in bits 15:8, of every
other code the first byte (30_encoding R73, R76, R80, R83). -/
def tableWord (p : Packet) : Nat :=
  match p.fmt, p.code with
  | .wire2, [b, x] => b.toNat * 256 + x.toNat
  | _, b :: _ => b.toNat
  | _, [] => 0

/-- The encoder writes the format and the fixed bits of the row. -/
def TableCode.Statement (i : Instr) : Prop :=
  ∀ f m k, tableRow i = some (f, m, k) → (encode i).fmt = f ∧ tableWord (encode i) &&& k = m

/-- A row without fixed bits. -/
theorem code_none {i : Instr} (h : tableRow i = none) : TableCode.Statement i := fun _ _ _ e => by simp [h] at e

/-- A row whose code does not depend on the operands. -/
theorem code_some {i : Instr} {f : Format} {m k : Nat} (h : tableRow i = some (f, m, k)) (hf : (encode i).fmt = f)
    (hw : tableWord (encode i) &&& k = m) : TableCode.Statement i := fun _ _ _ e => by
  rw [h] at e; cases e; exact ⟨hf, hw⟩

theorem escape_pair_word (x : Byte) : (0x7D * 256 + x.toNat) &&& 0xFF00 = 0x7D00 := by
  revert x; decide

theorem ackreq_bits (r : Bool) (t : BitVec 6) : (Machine.typeByte true r t).toNat &&& 0x80 = 0x80 := by
  revert r t; decide

theorem TableCode.reserved0 (h : Nat) : TableCode.Statement (.reserved0 h) :=
  code_some rfl rfl (by simp [tableWord, encode, hostPacket])
theorem TableCode.connect (h : Nat) : TableCode.Statement (.connect h) :=
  code_some rfl rfl (by simp [tableWord, encode, hostPacket])
theorem TableCode.disconnect (h : Nat) : TableCode.Statement (.disconnect h) :=
  code_some rfl rfl (by simp [tableWord, encode, hostPacket])
theorem TableCode.send (h : Nat) (msg : Message) : TableCode.Statement (.send h msg) :=
  code_some rfl rfl (by simp [tableWord, encode, hostPacket])
theorem TableCode.sendTimed (h : Nat) (msg : Message) (tMs : Nat) : TableCode.Statement (.sendTimed h msg tMs) :=
  code_some rfl rfl (by simp [tableWord, encode, hostPacket])
theorem TableCode.subscribe (h : Nat) (lid : LID) : TableCode.Statement (.subscribe h lid) :=
  code_some rfl rfl (by simp [tableWord, encode, hostPacket])
theorem TableCode.unsubscribe (h : Nat) (lid : LID) : TableCode.Statement (.unsubscribe h lid) :=
  code_some rfl rfl (by simp [tableWord, encode, hostPacket])
theorem TableCode.setClock (h year month day hour minute dow : Nat) : TableCode.Statement (.setClock h year month day hour minute dow) :=
  code_some rfl rfl (by simp [tableWord, encode, hostPacket])
theorem TableCode.querySize (h : Nat) : TableCode.Statement (.querySize h) :=
  code_some rfl rfl (by simp [tableWord, encode, hostPacket])
theorem TableCode.queryFull (h : Nat) : TableCode.Statement (.queryFull h) :=
  code_some rfl rfl (by simp [tableWord, encode, hostPacket])
theorem TableCode.reservedA (h : Nat) : TableCode.Statement (.reservedA h) :=
  code_some rfl rfl (by simp [tableWord, encode, hostPacket])
theorem TableCode.reservedB (h : Nat) : TableCode.Statement (.reservedB h) :=
  code_some rfl rfl (by simp [tableWord, encode, hostPacket])
theorem TableCode.reservedC (h : Nat) : TableCode.Statement (.reservedC h) :=
  code_some rfl rfl (by simp [tableWord, encode, hostPacket])
theorem TableCode.reservedD (h : Nat) : TableCode.Statement (.reservedD h) :=
  code_some rfl rfl (by simp [tableWord, encode, hostPacket])
theorem TableCode.reservedE (h : Nat) : TableCode.Statement (.reservedE h) :=
  code_some rfl rfl (by simp [tableWord, encode, hostPacket])
theorem TableCode.reservedF (h : Nat) : TableCode.Statement (.reservedF h) :=
  code_some rfl rfl (by simp [tableWord, encode, hostPacket])
theorem TableCode.append (h : Nat) (m : Message) : TableCode.Statement (.append h m) :=
  code_some rfl rfl (by simp [tableWord, encode, queuePacket])
theorem TableCode.appendTimed (h : Nat) (m : Message) (tMs : Nat) : TableCode.Statement (.appendTimed h m tMs) :=
  code_some rfl rfl (by simp [tableWord, encode, queuePacket])
theorem TableCode.prepend (m : Message) : TableCode.Statement (.prepend m) :=
  code_some rfl rfl (by simp [tableWord, encode, queuePacket])
theorem TableCode.take : TableCode.Statement .take :=
  code_some rfl rfl (by simp [tableWord, encode, queuePacket])
theorem TableCode.size (h : Nat) : TableCode.Statement (.size h) :=
  code_some rfl rfl (by simp [tableWord, encode, queuePacket])
theorem TableCode.isFull (h : Nat) : TableCode.Statement (.isFull h) :=
  code_some rfl rfl (by simp [tableWord, encode, queuePacket])
theorem TableCode.flag : TableCode.Statement .flag :=
  code_some rfl rfl (by simp [tableWord, encode, plainPacket])
theorem TableCode.escape : TableCode.Statement .escape :=
  code_some rfl rfl (by simp [tableWord, encode, plainPacket])
theorem TableCode.esc7E : TableCode.Statement .esc7E :=
  code_some rfl rfl (by simp [tableWord, encode, plainPacket])
theorem TableCode.esc7D : TableCode.Statement .esc7D :=
  code_some rfl rfl (by simp [tableWord, encode, plainPacket])
theorem TableCode.escIllegal (code : Byte) : TableCode.Statement (.escIllegal code) :=
  code_some rfl rfl (escape_pair_word _)
theorem TableCode.frame (len : Byte) (data : List Byte) (cs1 cs2 : Byte) : TableCode.Statement (.frame len data cs1 cs2) :=
  code_some rfl rfl (by simp [tableWord, encode, plainPacket])
theorem TableCode.ackreq (rsvd : Bool) (type6 : BitVec 6) : TableCode.Statement (.ackreq rsvd type6) :=
  code_some rfl rfl (ackreq_bits _ _)
theorem TableCode.typeBareAck (ackreq rsvd : Bool) : TableCode.Statement (.typeBareAck ackreq rsvd) :=
  code_some rfl rfl (by revert ackreq rsvd; decide)
theorem TableCode.typeExempt (ackreq rsvd : Bool) : TableCode.Statement (.typeExempt ackreq rsvd) :=
  code_some rfl rfl (by revert ackreq rsvd; decide)
theorem TableCode.notify (lid : LID) (ans : ListenerAnswer) : TableCode.Statement (.notify lid ans) := code_none rfl
theorem TableCode.tReady : TableCode.Statement .tReady :=
  code_some rfl rfl (by simp [tableWord, encode, plainPacket])
theorem TableCode.tTimeout : TableCode.Statement .tTimeout :=
  code_some rfl rfl (by simp [tableWord, encode, plainPacket])
theorem TableCode.tCancel : TableCode.Statement .tCancel :=
  code_some rfl rfl (by simp [tableWord, encode, plainPacket])
theorem TableCode.tTake : TableCode.Statement .tTake :=
  code_some rfl rfl (by simp [tableWord, encode, plainPacket])
theorem TableCode.tEmit : TableCode.Statement .tEmit :=
  code_some rfl rfl (by simp [tableWord, encode, plainPacket])
theorem TableCode.tWrerr : TableCode.Statement .tWrerr :=
  code_some rfl rfl (by simp [tableWord, encode, plainPacket])
theorem TableCode.tEnd : TableCode.Statement .tEnd :=
  code_some rfl rfl (by simp [tableWord, encode, plainPacket])
theorem TableCode.rHuntSkip : TableCode.Statement .rHuntSkip :=
  code_some rfl rfl (by simp [tableWord, encode, plainPacket])
theorem TableCode.rHuntFlag : TableCode.Statement .rHuntFlag :=
  code_some rfl rfl (by simp [tableWord, encode, plainPacket])
theorem TableCode.rLen : TableCode.Statement .rLen :=
  code_some rfl rfl (by simp [tableWord, encode, plainPacket])
theorem TableCode.rDataPlain : TableCode.Statement .rDataPlain :=
  code_some rfl rfl (by simp [tableWord, encode, plainPacket])
theorem TableCode.rDataEsc : TableCode.Statement .rDataEsc :=
  code_some rfl rfl (by simp [tableWord, encode, plainPacket])
theorem TableCode.rEscOk : TableCode.Statement .rEscOk :=
  code_some rfl rfl (by simp [tableWord, encode, plainPacket])
theorem TableCode.rEscBad : TableCode.Statement .rEscBad :=
  code_some rfl rfl (by simp [tableWord, encode, plainPacket])
theorem TableCode.rCs1 : TableCode.Statement .rCs1 :=
  code_some rfl rfl (by simp [tableWord, encode, plainPacket])
theorem TableCode.rCs2 : TableCode.Statement .rCs2 :=
  code_some rfl rfl (by simp [tableWord, encode, plainPacket])
theorem TableCode.rAckInsert : TableCode.Statement .rAckInsert :=
  code_some rfl rfl (by simp [tableWord, encode, plainPacket])
theorem TableCode.rAckHold : TableCode.Statement .rAckHold :=
  code_some rfl rfl (by simp [tableWord, encode, plainPacket])
theorem TableCode.rAckAbort : TableCode.Statement .rAckAbort :=
  code_some rfl rfl (by simp [tableWord, encode, plainPacket])
theorem TableCode.rAckNone : TableCode.Statement .rAckNone :=
  code_some rfl rfl (by simp [tableWord, encode, plainPacket])
theorem TableCode.rGate : TableCode.Statement .rGate :=
  code_some rfl rfl (by simp [tableWord, encode, plainPacket])
theorem TableCode.rDeliverOk : TableCode.Statement .rDeliverOk :=
  code_some rfl rfl (by simp [tableWord, encode, plainPacket])
theorem TableCode.rDeliverFault : TableCode.Statement .rDeliverFault :=
  code_some rfl rfl (by simp [tableWord, encode, plainPacket])
theorem TableCode.rClose : TableCode.Statement .rClose :=
  code_some rfl rfl (by simp [tableWord, encode, plainPacket])
theorem TableCode.disconnectComplete : TableCode.Statement .disconnectComplete :=
  code_some rfl rfl (by simp [tableWord, encode, plainPacket])
theorem TableCode.insertRelease (h : Nat) (op : InsertOp) : TableCode.Statement (.insertRelease h op) := code_none rfl

end Sys2Proof.Laws
end

