-- ==== Sys2Proof/Machine/Generic.lean ====
section
/-! DEFINITION. The machine over any type `L` of listener identifiers with decidable equality, which the spec leaves open as
a parameter (00_scope R12, 93_implementation_defined U8). `State`, `Instr` and every meaning take that type; `exec` and `step`
are the machine at `LID`, the value their type has where none is given (log 3). -/

namespace Sys2Proof

/-- The instruction with each listener identifier replaced. -/
def Instr.map {L M : Type} (f : L → M) (i : Instr L) : Instr M :=
  match i with
  | .reserved0 h => .reserved0 h
  | .connect h => .connect h
  | .disconnect h => .disconnect h
  | .send h msg => .send h msg
  | .sendTimed h msg tMs => .sendTimed h msg tMs
  | .subscribe h lid => .subscribe h (f lid)
  | .unsubscribe h lid => .unsubscribe h (f lid)
  | .setClock h year month day hour minute dow => .setClock h year month day hour minute dow
  | .querySize h => .querySize h
  | .queryFull h => .queryFull h
  | .reservedA h => .reservedA h
  | .reservedB h => .reservedB h
  | .reservedC h => .reservedC h
  | .reservedD h => .reservedD h
  | .reservedE h => .reservedE h
  | .reservedF h => .reservedF h
  | .append h m => .append h m
  | .appendTimed h m tMs => .appendTimed h m tMs
  | .prepend m => .prepend m
  | .take => .take
  | .size h => .size h
  | .isFull h => .isFull h
  | .flag => .flag
  | .escape => .escape
  | .esc7E => .esc7E
  | .esc7D => .esc7D
  | .escIllegal code => .escIllegal code
  | .frame len data cs1 cs2 => .frame len data cs1 cs2
  | .ackreq rsvd type6 => .ackreq rsvd type6
  | .typeBareAck a r => .typeBareAck a r
  | .typeExempt a r => .typeExempt a r
  | .notify lid ans => .notify (f lid) ans
  | .tReady => .tReady
  | .tTimeout => .tTimeout
  | .tCancel => .tCancel
  | .tTake => .tTake
  | .tEmit => .tEmit
  | .tWrerr => .tWrerr
  | .tEnd => .tEnd
  | .rHuntSkip => .rHuntSkip
  | .rHuntFlag => .rHuntFlag
  | .rLen => .rLen
  | .rDataPlain => .rDataPlain
  | .rDataEsc => .rDataEsc
  | .rEscOk => .rEscOk
  | .rEscBad => .rEscBad
  | .rCs1 => .rCs1
  | .rCs2 => .rCs2
  | .rAckInsert => .rAckInsert
  | .rAckHold => .rAckHold
  | .rAckAbort => .rAckAbort
  | .rAckNone => .rAckNone
  | .rGate => .rGate
  | .rDeliverOk => .rDeliverOk
  | .rDeliverFault => .rDeliverFault
  | .rClose => .rClose
  | .disconnectComplete => .disconnectComplete
  | .insertRelease h op => .insertRelease h op

end Sys2Proof

namespace Sys2Proof.Machine

variable {L : Type} [DecidableEq L]

/-- `exec` over any type of listener identifiers: the same meaning for each instruction. -/
def execOver (i : Instr L) (s : State L) : Result L :=
  match i with
  | .reserved0 h => execReserved0 h s
  | .connect h => execConnect h s
  | .disconnect h => execDisconnect h s
  | .send h msg => execSend h msg s
  | .sendTimed h msg tMs => execSendTimed h msg tMs s
  | .subscribe h lid => execSubscribe h lid s
  | .unsubscribe h lid => execUnsubscribe h lid s
  | .setClock h year month day hour minute dow => execSetClock h year month day hour minute dow s
  | .querySize h => execQuerySize h s
  | .queryFull h => execQueryFull h s
  | .reservedA h => execReservedA h s
  | .reservedB h => execReservedB h s
  | .reservedC h => execReservedC h s
  | .reservedD h => execReservedD h s
  | .reservedE h => execReservedE h s
  | .reservedF h => execReservedF h s
  | .append h m => execAppend h m s
  | .appendTimed h m tMs => execAppendTimed h m tMs s
  | .prepend m => execPrepend m s
  | .take => execTake s
  | .size h => execSize h s
  | .isFull h => execIsFull h s
  | .flag => execFlag s
  | .escape => execEscape s
  | .esc7E => execEsc7E s
  | .esc7D => execEsc7D s
  | .escIllegal code => execEscIllegal code s
  | .frame len data cs1 cs2 => execFrame len data cs1 cs2 s
  | .ackreq rsvd type6 => execAckreq rsvd type6 s
  | .typeBareAck a r => execTypeBareAck a r s
  | .typeExempt a r => execTypeExempt a r s
  | .notify lid ans => execNotify lid ans s
  | .tReady => execTReady s
  | .tTimeout => execTTimeout s
  | .tCancel => execTCancel s
  | .tTake => execTTake s
  | .tEmit => execTEmit s
  | .tWrerr => execTWrerr s
  | .tEnd => execTEnd s
  | .rHuntSkip => execRHuntSkip s
  | .rHuntFlag => execRHuntFlag s
  | .rLen => execRLen s
  | .rDataPlain => execRDataPlain s
  | .rDataEsc => execRDataEsc s
  | .rEscOk => execREscOk s
  | .rEscBad => execREscBad s
  | .rCs1 => execRCs1 s
  | .rCs2 => execRCs2 s
  | .rAckInsert => execRAckInsert s
  | .rAckHold => execRAckHold s
  | .rAckAbort => execRAckAbort s
  | .rAckNone => execRAckNone s
  | .rGate => execRGate s
  | .rDeliverOk => execRDeliverOk s
  | .rDeliverFault => execRDeliverFault s
  | .rClose => execRClose s
  | .disconnectComplete => execDisconnectComplete s
  | .insertRelease h op => execInsertRelease h op s

/-- `step` over any type of listener identifiers. A packet names a listener by a number; `ids` says which listener that is. -/
def stepOver (ids : LID → L) (s : State L) : Result L :=
  match s.fetch with
  | .act split p =>
    match decode p with
    | .ok i => execOver (i.map ids) (s.fetched.withSplit split)
    | .reject r => rejectPacket r
  | .clock ms => .next (s.fetched.tick ms)
  | .wire xs => .next (s.fetched.offerSymbols xs)
  | .wireLost => .next s.fetched.dropSymbols
  | .sink answers => .next (s.fetched.offerAnswers answers)
  | .sinkLost => .next s.fetched.dropAnswers

end Sys2Proof.Machine
end

