-- ==== Sys2Proof/Laws/Registry.lean ====
section
/-! SUPPORT. The type of listener identifiers is a parameter (00_scope R12): each operation on it says what it does at any
type, and commutes with any injective change of identifiers; so do every instruction and every step. -/

namespace Sys2Proof.Machine

section
variable {L : Type} [DecidableEq L] {lmax : Nat} {reg : List L} {lid : L}

/-- Everything SUBSCRIBE can find (45_dispatch R158). -/
theorem subscribeTo_cases (lmax : Nat) (reg : List L) (lid : L) :
    (lid ∈ reg ∧ subscribeTo lmax reg lid = .present) ∨
    (lid ∉ reg ∧ reg.length = lmax ∧ subscribeTo lmax reg lid = .full) ∨
    (lid ∉ reg ∧ reg.length ≠ lmax ∧ subscribeTo lmax reg lid = .added (reg ++ [lid])) := by
  unfold subscribeTo
  split
  · next h => exact .inl ⟨h, rfl⟩
  · next h =>
    split
    · next hl => exact .inr (.inl ⟨h, hl, rfl⟩)
    · next hl => exact .inr (.inr ⟨h, hl, rfl⟩)

/-- UNSUBSCRIBE takes the id out, and no other (45_dispatch R159). -/
theorem mem_unsubscribeFrom {x : L} : x ∈ unsubscribeFrom reg lid ↔ x ∈ reg ∧ x ≠ lid := by simp [unsubscribeFrom]

/-- The registry stays without repeats and within its size (45_dispatch R157). -/
theorem subscribeTo_keeps {reg' : List L} (hd : reg.Nodup) (hl : reg.length ≤ lmax)
    (e : subscribeTo lmax reg lid = .added reg') : reg'.Nodup ∧ reg'.length ≤ lmax := by
  rcases subscribeTo_cases lmax reg lid with ⟨-, h⟩ | ⟨-, -, h⟩ | ⟨hn, hne, h⟩ <;> rw [h] at e <;> cases e
  refine ⟨List.nodup_append.mpr ⟨hd, by simp, ?_⟩, ?_⟩
  · rintro a ha b hb rfl
    exact hn (by simpa using (List.mem_singleton.mp hb) ▸ ha)
  · rw [List.length_append, List.length_singleton]; omega

theorem unsubscribeFrom_keeps (hd : reg.Nodup) : (unsubscribeFrom reg lid).Nodup := hd.filter _
end

/-! ### Another type of identifiers -/

/-- The registers, with each identifier replaced. -/
def RxRegs.recode {L M : Type} (f : L → M) (r : RxRegs L) : RxRegs M :=
  { st := r.st, len := r.len, buf := r.buf, esc := r.esc, serr := r.serr, s1 := r.s1, s2 := r.s2, c1 := r.c1, c2 := r.c2,
    ok := r.ok, snap := r.snap.map f, idx := r.idx }

def Event.recode {L M : Type} (f : L → M) : Event L → Event M
  | .cksumMismatch len c1 c2 s1 s2 => .cksumMismatch len c1 c2 s1 s2
  | .stuffError len => .stuffError len
  | .cksumExempt len c1 c2 s1 s2 => .cksumExempt len c1 c2 s1 s2
  | .runt => .runt
  | .rxPartial st => .rxPartial st
  | .rxStopped r => .rxStopped r
  | .txStopped r => .txStopped r
  | .gateTimeout => .gateTimeout
  | .listenerFault lid y => .listenerFault (f lid) y
  | .deliveryFailure h op => .deliveryFailure h op
  | .cmdRefused h op r => .cmdRefused h op r
  | .ackDropped => .ackDropped

def Notification.recode {L M : Type} (f : L → M) (n : Notification L) : Notification M :=
  { lid := f n.lid, type6 := n.type6, payload := n.payload }

def Subscription.recode {L M : Type} (f : L → M) : Subscription L → Subscription M
  | .present => .present
  | .full => .full
  | .added reg => .added (reg.map f)

section
variable {L M : Type} (f : L → M) (r : RxRegs L)

@[simp] theorem RxRegs.recode_st : (r.recode f).st = r.st := rfl
@[simp] theorem RxRegs.recode_len : (r.recode f).len = r.len := rfl
@[simp] theorem RxRegs.recode_buf : (r.recode f).buf = r.buf := rfl
@[simp] theorem RxRegs.recode_esc : (r.recode f).esc = r.esc := rfl
@[simp] theorem RxRegs.recode_ok : (r.recode f).ok = r.ok := rfl
@[simp] theorem RxRegs.recode_snap : (r.recode f).snap = r.snap.map f := rfl
@[simp] theorem RxRegs.recode_idx : (r.recode f).idx = r.idx := rfl
@[simp] theorem RxRegs.recode_ackreq : (r.recode f).ackreq = r.ackreq := rfl
@[simp] theorem RxRegs.recode_typeIs (b : Byte) : (r.recode f).typeIs b = r.typeIs b := rfl

theorem RxRegs.recode_accept (v : Byte) : (r.recode f).accept v = (r.accept v).recode f := rfl

theorem RxRegs.recode_frameEvents (b : Byte) :
    (r.recode f).frameEvents b = (r.frameEvents b).map (Event.recode f) := by
  have hs : (r.recode f).sumsMatch b = r.sumsMatch b := rfl
  have he : (r.recode f).serr = r.serr := rfl
  simp only [RxRegs.frameEvents, hs, he, recode_buf, recode_len, List.map_append, apply_ite (List.map (Event.recode f))]
  rfl

theorem RxRegs.recode_closeEvents (reason : RxStopReason) :
    (r.recode f).closeEvents reason = (r.closeEvents reason).map (Event.recode f) := by
  simp only [RxRegs.closeEvents, recode_st, List.map_append, apply_ite (List.map (Event.recode f))]
  rfl

theorem RxRegs.recode_startDispatch (reg : List L) :
    (r.recode f).startDispatch (reg.map f) = (r.startDispatch reg).recode f := by
  simp [RxRegs.startDispatch, RxRegs.recode]

theorem RxRegs.recode_advance : (r.recode f).advance = r.advance.recode f := by
  simp [RxRegs.advance, RxRegs.recode]

theorem RxRegs.recode_offer : (r.recode f).offer = r.offer.map (Notification.recode f) := by
  simp only [RxRegs.offer, recode_st, recode_snap, recode_idx, recode_buf, List.getElem?_map]
  cases r.st <;> cases r.snap[r.idx]? <;> cases r.buf <;> rfl

variable [DecidableEq L] [DecidableEq M] {f}

theorem subscribeTo_recode (hf : Function.Injective f) (lmax : Nat) (reg : List L) (lid : L) :
    subscribeTo lmax (reg.map f) (f lid) = (subscribeTo lmax reg lid).recode f := by
  have hm : f lid ∈ reg.map f ↔ lid ∈ reg := List.mem_map_of_injective hf
  simp only [subscribeTo, hm, List.length_map]
  split
  · rfl
  · split
    · rfl
    · simp [Subscription.recode]

theorem unsubscribeFrom_recode (hf : Function.Injective f) (reg : List L) (lid : L) :
    unsubscribeFrom (reg.map f) (f lid) = (unsubscribeFrom reg lid).map f := by
  simp only [unsubscribeFrom, List.filter_map, Function.comp_def, ne_eq, hf.eq_iff]

theorem Notification.recode_isFor (hf : Function.Injective f) (n : Notification L) (lid : L) :
    (n.recode f).isFor (f lid) = n.isFor lid := by
  simp only [Notification.isFor, Notification.recode, hf.eq_iff]
end

/-- The state, with each identifier replaced. -/
def State.recode {L M : Type} (f : L → M) (s : State L) : State M :=
  { cfg := s.cfg, conn := s.conn, streamOpen := s.streamOpen, cancel := s.cancel,
    q := s.q, gate := s.gate, tx := s.tx, rx := s.rx.recode f,
    reg := s.reg.map f, now := s.now, ev := s.ev.map (Event.recode f), wireOut := s.wireOut,
    host := s.host, wireIn := s.wireIn, sinkAns := s.sinkAns, lisAns := s.lisAns,
    notes := s.notes.map fun a => (a.1.recode f, a.2), sched := s.sched, draws := s.draws, split := s.split }

section
variable {L M : Type} {f : L → M} {s : State L}

@[simp] theorem State.recode_cfg : (s.recode f).cfg = s.cfg := rfl
@[simp] theorem State.recode_conn : (s.recode f).conn = s.conn := rfl
@[simp] theorem State.recode_streamOpen : (s.recode f).streamOpen = s.streamOpen := rfl
@[simp] theorem State.recode_cancel : (s.recode f).cancel = s.cancel := rfl
@[simp] theorem State.recode_q : (s.recode f).q = s.q := rfl
@[simp] theorem State.recode_gate : (s.recode f).gate = s.gate := rfl
@[simp] theorem State.recode_tx : (s.recode f).tx = s.tx := rfl
@[simp] theorem State.recode_rx : (s.recode f).rx = s.rx.recode f := rfl
@[simp] theorem State.recode_reg : (s.recode f).reg = s.reg.map f := rfl
@[simp] theorem State.recode_now : (s.recode f).now = s.now := rfl
@[simp] theorem State.recode_sinkAns : (s.recode f).sinkAns = s.sinkAns := rfl
@[simp] theorem State.recode_lisAns : (s.recode f).lisAns = s.lisAns := rfl
@[simp] theorem State.recode_sched : (s.recode f).sched = s.sched := rfl
@[simp] theorem State.recode_fetch : (s.recode f).fetch = s.fetch := rfl
@[simp] theorem State.recode_split : (s.recode f).split = s.split := rfl
@[simp] theorem State.recode_draws : (s.recode f).draws = s.draws := rfl
@[simp] theorem State.recode_hostCmd (h : Nat) : (s.recode f).hostCmd h = s.hostCmd h := rfl
@[simp] theorem State.recode_hostDeadline (h : Nat) : (s.recode f).hostDeadline h = s.hostDeadline h := rfl
@[simp] theorem State.recode_portIdle (h : Nat) : (s.recode f).portIdle h = s.portIdle h := rfl
@[simp] theorem State.recode_hasSpace : (s.recode f).hasSpace = s.hasSpace := rfl
@[simp] theorem State.recode_statQfull : (s.recode f).statQfull = s.statQfull := rfl
@[simp] theorem State.recode_statQsize : (s.recode f).statQsize = s.statQsize := rfl
@[simp] theorem State.recode_recv : (s.recode f).recv = s.recv := rfl
@[simp] theorem State.recode_recvByte : (s.recode f).recvByte = s.recvByte := rfl
@[simp] theorem State.recode_nextTypeIs (b : Byte) : (s.recode f).nextTypeIs b = s.nextTypeIs b := rfl
@[simp] theorem State.recode_clockReason : (s.recode f).clockReason = s.clockReason := rfl

theorem State.recode_offer : (s.recode f).offer = s.offer.map (Notification.recode f) := RxRegs.recode_offer f s.rx

/-- Raising events commutes with the change of identifiers. -/
theorem State.recode_raise (es : List (Event L)) :
    (s.recode f).raise (es.map (Event.recode f)) = (s.raise es).recode f := by
  simp [State.raise, State.recode]

theorem State.recode_refuse (h : Nat) (op : BitVec 4) (r : Reason) :
    (s.recode f).refuse h op r = (s.refuse h op r).recode f := State.recode_raise (s := s.respond h _) [.cmdRefused h op r]

theorem recode_drawn : (s.recode f).drawn = s.drawn.recode f := rfl

/-- The end of an insert that is not made (46_host_ops R175, R176). -/
theorem recode_undelivered (f : L → M) (h : Nat) (r : Response) (op : BitVec 4) :
    ((s.recode f).respond h r).raise [.deliveryFailure h op] = ((s.respond h r).raise [.deliveryFailure h op]).recode f :=
  State.recode_raise (s := s.respond h r) [.deliveryFailure h op]

theorem State.recode_insertOrHold (h : Nat) (m : Message) (c : HostCmd) :
    (s.recode f).insertOrHold h m c = (s.insertOrHold h m c).recode f := by
  simp only [State.insertOrHold, State.recode_split, State.recode_hasSpace, apply_ite (State.recode f)]
  rfl

theorem State.recode_sendChecks (h : Nat) (op : BitVec 4) (m : Message) {k : State L → State L}
    {k' : State M → State M} (hk : k' (s.recode f) = (k s).recode f) :
    (s.recode f).sendChecks h op m k' = (s.sendChecks h op m k).recode f := by
  simp only [State.sendChecks, State.recode_conn, State.recode_refuse, hk, apply_ite (State.recode f)]

theorem State.recode_sendIssue (h : Nat) (op : BitVec 4) (m : Message) (c : HostCmd) :
    (s.recode f).sendIssue h op m c = (s.sendIssue h op m c).recode f :=
  State.recode_sendChecks h op m (State.recode_insertOrHold h m c)

theorem State.recode_txStop (r : TxStopReason) : (s.recode f).txStop r = (s.txStop r).recode f :=
  congrArg (fun t => State.txGoto t .stopped) (State.recode_raise [.txStopped r])

theorem recode_sinkStop (f : L → M) (answers : List SinkAnswer) (r : TxStopReason) :
    State.txStop { s.recode f with sinkAns := answers } r = (State.txStop { s with sinkAns := answers } r).recode f :=
  State.recode_txStop (f := f) (s := { s with sinkAns := answers }) r

theorem State.recode_startDispatch : (s.recode f).startDispatch = s.startDispatch.recode f :=
  congrArg (fun r => { s.recode f with rx := r }) (RxRegs.recode_startDispatch f s.rx s.reg)

theorem State.recode_advance : (s.recode f).advance = s.advance.recode f :=
  congrArg (fun r => { s.recode f with rx := r, lisAns := none }) (RxRegs.recode_advance f s.rx)

/-- A conditional step commutes if its branches do. -/
theorem ite_recode {p : Prop} [Decidable p] {a b : Result L} {a' b' : Result M} (ha : a' = mapNext (State.recode f) a)
    (hb : b' = mapNext (State.recode f) b) :
    (if p then a' else b') = mapNext (State.recode f) (if p then a else b) := by
  split
  · exact ha
  · exact hb

theorem State.recode_offerSymbols (xs : List Symbol) : (s.recode f).offerSymbols xs = (s.offerSymbols xs).recode f := by
  simp only [State.offerSymbols, State.recode_streamOpen, apply_ite (State.recode f)]
  rfl

theorem State.recode_offerAnswers (xs : List SinkAnswer) : (s.recode f).offerAnswers xs = (s.offerAnswers xs).recode f := by
  simp only [State.offerAnswers, State.recode_streamOpen, apply_ite (State.recode f)]
  rfl

theorem State.recode_fetched : (s.recode f).fetched = s.fetched.recode f := by
  unfold State.fetched
  cases h : s.sched <;> simp [h] <;> rfl

theorem recode_hold : hold (s.recode f) = mapNext (State.recode f) (hold s) := rfl

theorem recode_issue {h : Nat} {k : State L → State L} {k' : State M → State M} (hk : k' (s.recode f) = (k s).recode f) :
    issue h (s.recode f) k' = mapNext (State.recode f) (issue h s k) := by
  simp only [issue, State.recode_portIdle, hk, apply_ite (mapNext (State.recode f))]
  rfl

theorem recode_takeStep : takeStep (s.recode f) = mapNext (State.recode f) (takeStep s) := by
  simp only [takeStep, State.recode_tx, State.recode_cancel, State.recode_q]
  split <;> rfl

theorem recode_ackInsertStep : ackInsertStep (s.recode f) = mapNext (State.recode f) (ackInsertStep s) := by
  simp only [ackInsertStep, State.recode_rx, RxRegs.recode_st, RxRegs.recode_ackreq, State.recode_hasSpace,
    apply_ite (mapNext (State.recode f))]
  rfl

theorem State.recode_abortAck : (s.recode f).abortAck = s.abortAck.recode f := by
  simp [State.abortAck, State.raise, State.rxGoto, State.recode, RxRegs.recode, Event.recode]

theorem recode_ackAbortStep : ackAbortStep (s.recode f) = mapNext (State.recode f) (ackAbortStep s) := by
  simp only [ackAbortStep, State.recode_rx, RxRegs.recode_st, RxRegs.recode_ackreq, State.recode_statQfull,
    State.recode_cancel, State.recode_abortAck, apply_ite (mapNext (State.recode f))]
  rfl

theorem State.recode_consumeSymbol : (s.recode f).consumeSymbol = s.consumeSymbol.recode f := by
  simp only [State.consumeSymbol, State.recode_streamOpen, apply_ite (State.recode f)]
  rfl

theorem State.recode_finishFrame (b : Byte) : (s.recode f).finishFrame b = (s.finishFrame b).recode f := by
  simp only [State.finishFrame, State.recode_consumeSymbol, State.recode_rx, RxRegs.recode_frameEvents,
    State.recode_raise]
  rfl

theorem State.recode_rxClose (r : RxStopReason) : (s.recode f).rxClose r = (s.rxClose r).recode f := by
  simp only [State.rxClose, State.recode_consumeSymbol, State.recode_rx, RxRegs.recode_closeEvents, State.recode_raise]
  rfl

theorem recode_cs2Step : cs2Step (s.recode f) = mapNext (State.recode f) (cs2Step s) := by
  simp only [cs2Step, State.recode_rx, RxRegs.recode_st, State.recode_recvByte, State.recode_finishFrame]
  split <;> rfl
end

/-- `exec` is the machine over any type of identifiers, at `LID`. -/
theorem exec_eq_execOver (i : Instr) (s : State) : exec i s = execOver i s := by cases i <;> rfl

theorem instrMap_id {L : Type} (i : Instr L) : i.map id = i := by cases i <;> rfl

/-- `step` is the machine over any type of identifiers, at `LID`. -/
theorem step_eq_stepOver (s : State) : step s = stepOver id s := by
  unfold step stepOver
  cases s.fetch with
  | act sp p =>
    cases hd : decode p with
    | ok i => simp only [hd, instrMap_id, exec_eq_execOver]
    | reject r => simp only [hd]
  | clock ms => rfl
  | wire xs => rfl
  | wireLost => rfl
  | sink xs => rfl
  | sinkLost => rfl

theorem instrMap_map {L M N : Type} (f : L → M) (g : N → L) (i : Instr N) : (i.map g).map f = i.map (f ∘ g) := by
  cases i <;> rfl

theorem recode_rejectPacket {L M : Type} (f : L → M) (r : Reject) :
    (rejectPacket r : Result M) = mapNext (State.recode f) (rejectPacket r : Result L) := by cases r <;> rfl

section
variable {L M : Type} [DecidableEq L] [DecidableEq M] {f : L → M}

/-- Every instruction commutes with an injective change of identifiers, from any type of identifiers to any other: the
machine compares identifiers for equality and does nothing else with them (00_scope R12, log 3). -/
theorem execOver_recode (hf : Function.Injective f) (i : Instr L) (s : State L) :
    execOver (i.map f) (s.recode f) = mapNext (State.recode f) (execOver i s) := by
  cases i
  case reserved0 =>
    dsimp only [Instr.map, execOver, execReserved0, reservedCommand]
    refine recode_issue ?_
    exact State.recode_refuse _ _ _
  case connect =>
    dsimp only [Instr.map, execOver, execConnect]
    refine recode_issue ?_
    simp only [State.recode_conn, State.recode_refuse, apply_ite (State.recode f)]
    rfl
  case disconnect =>
    dsimp only [Instr.map, execOver, execDisconnect]
    refine recode_issue ?_
    simp only [State.recode_conn]
    split <;> rfl
  case send =>
    dsimp only [Instr.map, execOver, execSend]
    refine recode_issue ?_
    exact State.recode_sendIssue _ _ _ _
  case sendTimed =>
    dsimp only [Instr.map, execOver, execSendTimed]
    refine recode_issue ?_
    exact State.recode_sendChecks _ _ _ (State.recode_insertOrHold (s := s.setDeadline _ _) _ _ _)
  case subscribe =>
    dsimp only [Instr.map, execOver, execSubscribe]
    refine recode_issue ?_
    simp only [State.recode_conn, State.recode_refuse, State.recode_cfg, State.recode_reg, subscribeTo_recode hf]
    split
    · rfl
    · cases subscribeTo s.cfg.lmax s.reg _
      · rfl
      · rfl
      · rfl
  case unsubscribe =>
    dsimp only [Instr.map, execOver, execUnsubscribe]
    refine recode_issue ?_
    simp only [State.recode_reg, unsubscribeFrom_recode hf]
    rfl
  case setClock =>
    dsimp only [Instr.map, execOver, execSetClock]
    refine recode_issue ?_
    simp only [State.recode_conn, recode_drawn, State.recode_clockReason, State.recode_refuse, State.recode_sendIssue, apply_ite (State.recode f)]
  case querySize =>
    dsimp only [Instr.map, execOver, execQuerySize, sizeQuery]
    refine recode_issue ?_
    rfl
  case queryFull =>
    dsimp only [Instr.map, execOver, execQueryFull, fullQuery]
    refine recode_issue ?_
    rfl
  case reservedA =>
    dsimp only [Instr.map, execOver, execReservedA, reservedCommand]
    refine recode_issue ?_
    exact State.recode_refuse _ _ _
  case reservedB =>
    dsimp only [Instr.map, execOver, execReservedB, reservedCommand]
    refine recode_issue ?_
    exact State.recode_refuse _ _ _
  case reservedC =>
    dsimp only [Instr.map, execOver, execReservedC, reservedCommand]
    refine recode_issue ?_
    exact State.recode_refuse _ _ _
  case reservedD =>
    dsimp only [Instr.map, execOver, execReservedD, reservedCommand]
    refine recode_issue ?_
    exact State.recode_refuse _ _ _
  case reservedE =>
    dsimp only [Instr.map, execOver, execReservedE, reservedCommand]
    refine recode_issue ?_
    exact State.recode_refuse _ _ _
  case reservedF =>
    dsimp only [Instr.map, execOver, execReservedF, reservedCommand]
    refine recode_issue ?_
    exact State.recode_refuse _ _ _
  case append =>
    simp only [Instr.map, execOver, execAppend, State.recode_hostCmd, State.recode_conn, State.recode_hasSpace]
    split
    · exact ite_recode rfl rfl
    · rfl
  case appendTimed => exact ite_recode (ite_recode rfl (ite_recode (congrArg Host.Outcome.next (recode_undelivered _ _ _ _)) rfl)) rfl
  case prepend => exact ite_recode recode_ackInsertStep rfl
  case take => exact recode_takeStep
  case size =>
    dsimp only [Instr.map, execOver, execSize, sizeQuery]
    refine recode_issue ?_
    rfl
  case isFull =>
    dsimp only [Instr.map, execOver, execIsFull, fullQuery]
    refine recode_issue ?_
    rfl
  case flag => exact congrArg Host.Outcome.next (State.recode_offerSymbols _)
  case escape => exact congrArg Host.Outcome.next (State.recode_offerSymbols _)
  case esc7E => exact congrArg Host.Outcome.next (State.recode_offerSymbols _)
  case esc7D => exact congrArg Host.Outcome.next (State.recode_offerSymbols _)
  case escIllegal => exact congrArg Host.Outcome.next (State.recode_offerSymbols _)
  case frame => exact congrArg Host.Outcome.next (State.recode_offerSymbols _)
  case ackreq => exact ite_recode (ite_recode recode_ackInsertStep recode_ackAbortStep) rfl
  case typeBareAck => exact ite_recode recode_takeStep rfl
  case typeExempt => exact ite_recode recode_cs2Step rfl
  case notify =>
    simp only [Instr.map, execOver, execNotify, State.recode_offer, State.recode_lisAns]
    cases ho : s.offer with
    | none => rfl
    | some n =>
      cases s.lisAns with
      | some a => rfl
      | none =>
        simp only [Option.map_some, Notification.recode_isFor hf]
        refine ite_recode ?_ rfl
        simp [mapNext, State.recode]
  case tReady => exact ite_recode rfl rfl
  case tTimeout => exact ite_recode (congrArg (fun t => Host.Outcome.next (State.txGoto t .take)) (State.recode_raise [.gateTimeout])) rfl
  case tCancel => exact ite_recode (congrArg Host.Outcome.next (State.recode_txStop _)) rfl
  case tTake => exact recode_takeStep
  case tEmit =>
    simp only [Instr.map, execOver, execTEmit, State.recode_tx, State.recode_streamOpen, State.recode_sinkAns]
    split <;> rfl
  case tWrerr =>
    simp only [Instr.map, execOver, execTWrerr, State.recode_tx, State.recode_streamOpen, State.recode_sinkAns, State.recode_txStop]
    split
    · rfl
    · exact congrArg Host.Outcome.next (recode_sinkStop f _ _)
    · rfl
  case tEnd => exact ite_recode rfl rfl
  case rHuntSkip =>
    simp only [Instr.map, execOver, execRHuntSkip, State.recode_rx, RxRegs.recode_st, State.recode_recvByte, State.recode_consumeSymbol]
    split
    · split <;> rfl
    · rfl
  case rHuntFlag =>
    simp only [Instr.map, execOver, execRHuntFlag, State.recode_rx, RxRegs.recode_st, State.recode_recvByte, State.recode_consumeSymbol]
    split
    · split <;> rfl
    · rfl
  case rLen =>
    simp only [Instr.map, execOver, execRLen, State.recode_rx, RxRegs.recode_st, State.recode_recvByte, State.recode_consumeSymbol]
    split <;> rfl
  case rDataPlain =>
    simp only [Instr.map, execOver, execRDataPlain, State.recode_rx, RxRegs.recode_st, RxRegs.recode_esc, State.recode_recvByte, State.recode_consumeSymbol]
    split
    · split <;> rfl
    · rfl
  case rDataEsc =>
    simp only [Instr.map, execOver, execRDataEsc, State.recode_rx, RxRegs.recode_st, RxRegs.recode_esc, State.recode_recvByte, State.recode_consumeSymbol]
    split
    · split <;> rfl
    · rfl
  case rEscOk =>
    simp only [Instr.map, execOver, execREscOk, State.recode_rx, RxRegs.recode_st, RxRegs.recode_esc, State.recode_recvByte, State.recode_consumeSymbol]
    split
    · split <;> rfl
    · rfl
  case rEscBad =>
    simp only [Instr.map, execOver, execREscBad, State.recode_rx, RxRegs.recode_st, RxRegs.recode_esc, State.recode_recvByte, State.recode_consumeSymbol]
    split
    · split <;> rfl
    · rfl
  case rCs1 =>
    simp only [Instr.map, execOver, execRCs1, State.recode_rx, RxRegs.recode_st, State.recode_recvByte, State.recode_consumeSymbol]
    split <;> rfl
  case rCs2 => exact recode_cs2Step
  case rAckInsert => exact recode_ackInsertStep
  case rAckHold => rfl
  case rAckAbort => exact recode_ackAbortStep
  case rAckNone => exact ite_recode rfl rfl
  case rGate => exact ite_recode (ite_recode (congrArg Host.Outcome.next (State.recode_startDispatch (s := s.gateSet))) rfl) rfl
  case rDeliverOk =>
    simp only [Instr.map, execOver, execRDeliverOk, State.recode_offer, State.recode_lisAns]
    cases s.offer
    · rfl
    · cases s.lisAns with
      | none => rfl
      | some a => cases a <;> first | rfl | exact congrArg Host.Outcome.next State.recode_advance
  case rDeliverFault =>
    simp only [Instr.map, execOver, execRDeliverFault, State.recode_offer, State.recode_lisAns]
    cases s.offer with
    | none => rfl
    | some n =>
      cases s.lisAns with
      | none => rfl
      | some a =>
        cases a
        · rfl
        · exact congrArg Host.Outcome.next ((congrArg State.advance (State.recode_raise [.listenerFault n.lid n.type6])).trans
            State.recode_advance)
  case rClose =>
    simp only [Instr.map, execOver, execRClose, State.recode_rx, RxRegs.recode_st, State.recode_recv, State.recode_rxClose]
    split <;> rfl
  case disconnectComplete => exact ite_recode rfl rfl
  case insertRelease =>
    simp only [Instr.map, execOver, execInsertRelease, State.recode_hostCmd, State.recode_conn]
    split
    · exact ite_recode (congrArg Host.Outcome.next (recode_undelivered _ _ _ _)) rfl
    · rfl

/-- Every step commutes with an injective change of identifiers: a machine over any type of identifiers with a coding in
another runs as the machine over that other (00_scope R12, log 3). -/
theorem stepOver_recode (hf : Function.Injective f) (ids : LID → L) (s : State L) :
    stepOver (f ∘ ids) (s.recode f) = mapNext (State.recode f) (stepOver ids s) := by
  simp only [stepOver, State.recode_fetch, State.recode_fetched, State.recode_offerSymbols, State.recode_offerAnswers]
  split
  · next sp p _ =>
    split
    · next i _ =>
      rw [← instrMap_map f ids i]
      exact execOver_recode hf (i.map ids) (s.fetched.withSplit sp)
    · exact recode_rejectPacket f _
  all_goals rfl
end

end Sys2Proof.Machine
end

