-- ==== Sys2Proof/Tests/Slice0.lean ====
section
/-! SUPPORT. Tests: the checks of WellFormed, one written-out word per row, one or two steps per row with the values of
spec/95_test_vectors.md and of the rules' own examples, and a witness for each statement that has hypotheses. -/

namespace Sys2Proof.Tests

open Sys2Proof Sys2Proof.Machine

/-! ### WellFormed: an ill-formed term for each check -/

theorem wf_append (h : Nat) (m : Message) : WellFormed (.append h m) ↔ m.length ≤ 255 := by simp [WellFormed, Instr.wf]

theorem wf_appendTimed (h : Nat) (m : Message) (t : Nat) : WellFormed (.appendTimed h m t) ↔ m.length ≤ 255 := by
  simp [WellFormed, Instr.wf]

theorem too_long (b : Byte) : ¬ (List.replicate 256 b).length ≤ 255 := by rw [List.length_replicate]; decide

theorem test_wf_append : ¬ WellFormed (.append 0 (List.replicate 256 0)) := fun h => too_long 0 ((wf_append _ _).mp h)
theorem test_wf_appendTimed : ¬ WellFormed (.appendTimed 0 (List.replicate 256 0) 5) := fun h =>
  too_long 0 ((wf_appendTimed _ _ _).mp h)
theorem test_wf_prepend : ¬ WellFormed (.prepend [0x1E]) := by decide
theorem test_wf_escIllegal_7E : ¬ WellFormed (.escIllegal 0x5E) := by decide
theorem test_wf_escIllegal_7D : ¬ WellFormed (.escIllegal 0x5D) := by decide
theorem test_wf_frame_short : ¬ WellFormed (.frame 2 [0x24] 0x26 0x4E) := by decide
theorem test_wf_frame_cut_escape : ¬ WellFormed (.frame 1 [0x7D] 0x26 0x4E) := by decide
theorem test_wf_frame : WellFormed (.frame 1 [0x7D, 0x5D] 0x7E 0x7F) := by decide

/-! ### Decoding: one word per row, written out from 30_encoding R61, R66, R73, R76, R80, R83 and the opcode table -/

/-- A packet without message. -/
def word (f : Format) (port : Nat) (code : List Byte) (nums : List Nat) : Packet :=
  { fmt := f, port := port, code := code, msg := [], nums := nums }

/-- A packet with a message. -/
def wordMsg (f : Format) (port : Nat) (code : List Byte) (msg : Message) (nums : List Nat) : Packet :=
  { fmt := f, port := port, code := code, msg := msg, nums := nums }

theorem test_decode_reserved0 : decode (word .hostcmd 2 [0x00] []) = .ok (.reserved0 2) := by decide
theorem test_decode_connect : decode (word .hostcmd 2 [0x01] []) = .ok (.connect 2) := by decide
theorem test_decode_disconnect : decode (word .hostcmd 2 [0x02] []) = .ok (.disconnect 2) := by decide
theorem test_decode_querySize : decode (word .hostcmd 2 [0x08] []) = .ok (.querySize 2) := by decide
theorem test_decode_queryFull : decode (word .hostcmd 2 [0x09] []) = .ok (.queryFull 2) := by decide
theorem test_decode_reservedA : decode (word .hostcmd 2 [0x0A] []) = .ok (.reservedA 2) := by decide
theorem test_decode_reservedB : decode (word .hostcmd 2 [0x0B] []) = .ok (.reservedB 2) := by decide
theorem test_decode_reservedC : decode (word .hostcmd 2 [0x0C] []) = .ok (.reservedC 2) := by decide
theorem test_decode_reservedD : decode (word .hostcmd 2 [0x0D] []) = .ok (.reservedD 2) := by decide
theorem test_decode_reservedE : decode (word .hostcmd 2 [0x0E] []) = .ok (.reservedE 2) := by decide
theorem test_decode_reservedF : decode (word .hostcmd 2 [0x0F] []) = .ok (.reservedF 2) := by decide
theorem test_decode_send : decode (wordMsg .hostcmd 1 [0x03] [0x24, 0x00] []) = .ok (.send 1 [0x24, 0x00]) := by decide
theorem test_decode_sendTimed : decode (wordMsg .hostcmd 1 [0x04] [0x28] [100]) = .ok (.sendTimed 1 [0x28] 100) := by decide
theorem test_decode_subscribe : decode (word .hostcmd 0 [0x05] [7]) = .ok (.subscribe 0 7) := by decide
theorem test_decode_unsubscribe : decode (word .hostcmd 0 [0x06] [7]) = .ok (.unsubscribe 0 7) := by decide
theorem test_decode_setClock : decode (word .hostcmd 0 [0x07] [2026, 11, 12, 14, 30, 3]) = .ok (.setClock 0 2026 11 12 14 30 3) := by decide
theorem test_decode_append : decode (wordMsg .qport 1 [0x00] [0x24] []) = .ok (.append 1 [0x24]) := by decide
theorem test_decode_appendTimed : decode (wordMsg .qport 1 [0x01] [0x24] [10]) = .ok (.appendTimed 1 [0x24] 10) := by decide
theorem test_decode_prepend : decode (wordMsg .qport 0 [0x02] [0x1D] []) = .ok (.prepend [0x1D]) := by decide
theorem test_decode_take : decode (word .qport 0 [0x03] []) = .ok .take := by decide
theorem test_decode_size : decode (word .qport 1 [0x04] []) = .ok (.size 1) := by decide
theorem test_decode_isFull : decode (word .qport 1 [0x05] []) = .ok (.isFull 1) := by decide
theorem test_decode_flag : decode (word .wire 0 [0x7E] []) = .ok .flag := by decide
theorem test_decode_escape : decode (word .wire 0 [0x7D] []) = .ok .escape := by decide
theorem test_decode_esc7E : decode (word .wire2 0 [0x7D, 0x5E] []) = .ok .esc7E := by decide
theorem test_decode_esc7D : decode (word .wire2 0 [0x7D, 0x5D] []) = .ok .esc7D := by decide
theorem test_decode_escIllegal : decode (word .wire2 0 [0x7D, 0x41] []) = .ok (.escIllegal 0x41) := by decide
theorem test_decode_frame : decode (word .frame 0 [0x7E, 0x02, 0x5E, 0x7D, 0x5E, 0xDE, 0x41] []) = .ok (.frame 0x02 [0x5E, 0x7D, 0x5E] 0xDE 0x41) := by decide
theorem test_decode_ackreq : decode (word .type 0 [0x88] [0]) = .ok (.ackreq false 0x08) := by decide
theorem test_decode_typeBareAck : decode (word .type 0 [0x9D] [1]) = .ok (.typeBareAck true false) := by decide
theorem test_decode_typeExempt : decode (word .type 0 [0x45] [2]) = .ok (.typeExempt false true) := by decide
theorem test_decode_notify : decode (word .listener 0 [] [4, 1]) = .ok (.notify 4 .fault) := by decide
theorem test_decode_tReady : decode (word .txstep 0 [0x01] [0]) = .ok .tReady := by decide
theorem test_decode_tTimeout : decode (word .txstep 0 [0x01] [1]) = .ok .tTimeout := by decide
theorem test_decode_tCancel : decode (word .txstep 0 [0x01] [2]) = .ok .tCancel := by decide
theorem test_decode_tTake : decode (word .txstep 0 [0x02] [0]) = .ok .tTake := by decide
theorem test_decode_tEmit : decode (word .txstep 0 [0x03] [0]) = .ok .tEmit := by decide
theorem test_decode_tWrerr : decode (word .txstep 0 [0x03] [1]) = .ok .tWrerr := by decide
theorem test_decode_tEnd : decode (word .txstep 0 [0x03] [2]) = .ok .tEnd := by decide
theorem test_decode_tCancel_take : decode (word .txstep 0 [0x02] [1]) = .ok .tCancel := by decide
theorem test_decode_rHuntSkip : decode (word .rxstep 0 [0x01] [0]) = .ok .rHuntSkip := by decide
theorem test_decode_rHuntFlag : decode (word .rxstep 0 [0x01] [1]) = .ok .rHuntFlag := by decide
theorem test_decode_rLen : decode (word .rxstep 0 [0x02] [0]) = .ok .rLen := by decide
theorem test_decode_rDataPlain : decode (word .rxstep 0 [0x03] [0]) = .ok .rDataPlain := by decide
theorem test_decode_rDataEsc : decode (word .rxstep 0 [0x03] [1]) = .ok .rDataEsc := by decide
theorem test_decode_rEscOk : decode (word .rxstep 0 [0x03] [2]) = .ok .rEscOk := by decide
theorem test_decode_rEscBad : decode (word .rxstep 0 [0x03] [3]) = .ok .rEscBad := by decide
theorem test_decode_rCs1 : decode (word .rxstep 0 [0x04] [0]) = .ok .rCs1 := by decide
theorem test_decode_rCs2 : decode (word .rxstep 0 [0x05] [0]) = .ok .rCs2 := by decide
theorem test_decode_rAckInsert : decode (word .rxstep 0 [0x06] [0]) = .ok .rAckInsert := by decide
theorem test_decode_rAckHold : decode (word .rxstep 0 [0x06] [1]) = .ok .rAckHold := by decide
theorem test_decode_rAckAbort : decode (word .rxstep 0 [0x06] [2]) = .ok .rAckAbort := by decide
theorem test_decode_rAckNone : decode (word .rxstep 0 [0x06] [3]) = .ok .rAckNone := by decide
theorem test_decode_rGate : decode (word .rxstep 0 [0x07] [0]) = .ok .rGate := by decide
theorem test_decode_rDeliverOk : decode (word .rxstep 0 [0x08] [0]) = .ok .rDeliverOk := by decide
theorem test_decode_rDeliverFault : decode (word .rxstep 0 [0x08] [1]) = .ok .rDeliverFault := by decide
theorem test_decode_rClose : decode (word .rxstep 0 [0x01] [2]) = .ok .rClose := by decide
theorem test_decode_rClose_cs2 : decode (word .rxstep 0 [0x05] [1]) = .ok .rClose := by decide
theorem test_decode_disconnectComplete : decode (word .hoststep 0 [0x02] []) = .ok .disconnectComplete := by decide
theorem test_decode_insertRelease : decode (word .hoststep 1 [0x04] []) = .ok (.insertRelease 1 .sendTimed) := by decide

theorem test_decode_op_upper_bits : decode (word .hostcmd 2 [0xF1] []) = .ok (.connect 2) := by decide
theorem test_decode_tx_off : decode (word .txstep 0 [0x00] [0]) = .reject .noStep := by decide
theorem test_table_escIllegal : decodeTableWord 16 0x7D41 = some (.escIllegal 0x41) := by decide
theorem test_table_ackreq : decodeTableWord 8 0x88 = some (.ackreq false 0x08) := by decide

/-! ### States -/

/-- The next state, if there is one. -/
def after (r : Result) : Option State :=
  match r with
  | .next t => some t
  | .fault _ => none
  | .refused _ => none

/-- Connected, as CONNECT leaves it at time 0 (46_host_ops R168). -/
def up : State :=
  { State.reset with
    conn := .connected, streamOpen := true
    tx := { TxRegs.powerOn with st := .wait, deadline := 5000 }, rx := { (RxRegs.powerOn : RxRegs LID) with st := .hunt } }

/-- Connected, with the Transmitter in a state. -/
def tx (st : TxSt) (frame : List Byte) (isAck : Bool) : State :=
  { up with gate := false, tx := { st := st, deadline := 5000, frame := frame, isAck := isAck } }

/-- Connected, with the Receiver in a state and bytes offered. -/
def rx (st : RxSt) (len : Byte) (buf : Message) (s1 s2 : Byte) (offered : List Byte) : State :=
  { up with
    wireIn := offered.map .byte
    rx := { (RxRegs.powerOn : RxRegs LID) with st := st, len := len, buf := buf, s1 := s1, s2 := s2 } }

/-- The Receiver in the middle of an escape pair. -/
def escaped (b : Byte) : State :=
  { up with
    wireIn := [.byte b]
    rx := { (RxRegs.powerOn : RxRegs LID) with st := .data, len := 1, esc := true, s1 := 1, s2 := 1 } }

/-- A capacity of one. -/
def small (s : State) : State := { s with cfg := { s.cfg with qcap := 1 } }

/-- Host port 1 executes a command, with a deadline. -/
def holding (s : State) (c : HostCmd) (deadline : Nat) : State :=
  { s with host := [HostPort.powerOn, { cmd := some c, deadline := deadline, resp := [] }, HostPort.powerOn] }

/-- Cancelled and closing, with both loops in given states. -/
def closing (a : TxSt) (b : RxSt) : State :=
  { up with
    conn := .closing, cancel := true, streamOpen := false
    tx := { up.tx with st := a }, rx := { up.rx with st := b } }

/-- Dispatching `[88, 00]` to listeners 1 and 2. -/
def dispatching (idx : Nat) (ans : Option ListenerAnswer) : State :=
  { up with
    reg := [1, 2], lisAns := ans
    rx := { (RxRegs.powerOn : RxRegs LID) with
      st := .dispatch, len := 2, buf := [0x88, 0x00], s1 := 0x8A, s2 := 0x17, c1 := 0x8A, c2 := 0x17, ok := true
      snap := [1, 2], idx := idx } }

/-- What a step answers, seen through `f`. -/
def sees {α : Type} (i : Instr) (s : State) (f : State → α) : Option α := (after (exec i s)).map f

/-- The responses of a host port. -/
def resp (h : Nat) (s : State) : List Response := (s.host[h]?.map (·.resp)).getD []

/-! ### Steps -/

theorem test_reserved0 :
    sees (.reserved0 2) up (fun s => (resp 2 s, s.ev)) = some ([refusedResponse .reservedOp], [.cmdRefused 2 0x0 .reservedOp]) := by decide
theorem test_reservedA :
    sees (.reservedA 2) up (fun s => (resp 2 s, s.ev)) = some ([refusedResponse .reservedOp], [.cmdRefused 2 0xA .reservedOp]) := by decide
theorem test_reservedB :
    sees (.reservedB 2) up (fun s => (resp 2 s, s.ev)) = some ([refusedResponse .reservedOp], [.cmdRefused 2 0xB .reservedOp]) := by decide
theorem test_reservedC :
    sees (.reservedC 2) up (fun s => (resp 2 s, s.ev)) = some ([refusedResponse .reservedOp], [.cmdRefused 2 0xC .reservedOp]) := by decide
theorem test_reservedD :
    sees (.reservedD 2) up (fun s => (resp 2 s, s.ev)) = some ([refusedResponse .reservedOp], [.cmdRefused 2 0xD .reservedOp]) := by decide
theorem test_reservedE :
    sees (.reservedE 2) up (fun s => (resp 2 s, s.ev)) = some ([refusedResponse .reservedOp], [.cmdRefused 2 0xE .reservedOp]) := by decide
theorem test_reservedF :
    sees (.reservedF 2) up (fun s => (resp 2 s, s.ev)) = some ([refusedResponse .reservedOp], [.cmdRefused 2 0xF .reservedOp]) := by decide
theorem test_connect :
    sees (.connect 0) { State.reset with now := 7 } (fun s => (s.tx.st, s.rx.st, s.tx.deadline)) = some (.wait, .hunt, 5007) := by decide
theorem test_connect_again :
    sees (.connect 1) up (fun s => (resp 1 s, s.ev)) =
      some ([refusedResponse .alreadyConnected], [.cmdRefused 1 0x1 .alreadyConnected]) := by decide
theorem test_disconnect :
    sees (.disconnect 1) up (fun s => (s.conn, s.cancel, s.streamOpen, s.hostCmd 1)) =
      some (.closing, true, false, some .disconnect) := by decide
theorem test_disconnect_idempotent :
    sees (.disconnect 1) State.reset (fun s => (s.conn, resp 1 s)) = some (.disconnected, [okResponse]) := by decide
theorem test_send :
    sees (.send 0 [0x24, 0x00]) up (fun s => (s.q, resp 0 s)) = some ([[0x24, 0x00]], [okResponse]) := by decide
theorem test_send_full :
    sees (.send 0 [0x24]) (small { up with q := [[0x26]] }) (fun s => (s.q, s.hostCmd 0)) =
      some ([[0x26]], some (.send [0x24])) := by decide
theorem test_sendTimed :
    sees (.sendTimed 1 [0x28] 100) (small { up with q := [[0x26]], now := 3 }) (fun s => (s.hostCmd 1, s.hostDeadline 1)) =
      some (some (.sendTimed [0x28] 100), 103) := by decide
theorem test_sendTimed_disconnected :
    sees (.sendTimed 1 [0x28] 100) State.reset (fun s => (resp 1 s, s.ev)) =
      some ([refusedResponse .notConnected], [.cmdRefused 1 0x4 .notConnected]) := by decide
theorem test_subscribe :
    sees (.subscribe 0 2) { up with reg := [1] } (fun s => s.reg) = some [1, 2] := by decide
theorem test_subscribe_full :
    sees (.subscribe 0 9) { up with reg := [1, 2, 3, 4, 5, 6, 7, 8] } (fun s => (s.reg.length, s.ev)) =
      some (8, [.cmdRefused 0 0x5 .regFull]) := by decide
theorem test_unsubscribe :
    sees (.unsubscribe 0 1) { up with reg := [1, 2] } (fun s => s.reg) = some [2] := by decide
theorem test_setClock :
    sees (.setClock 0 2026 11 11 14 30 3) up (fun s => s.q) = some [[0x3B, 0x1A, 0x0B, 0x0B, 0x0E, 0x1E, 0x03]] := by decide
theorem test_setClock_month :
    sees (.setClock 0 2026 13 11 14 30 3) up (fun s => (s.q, s.ev)) = some ([], [.cmdRefused 0 0x7 .badField]) := by decide
theorem test_querySize :
    sees (.querySize 2) { up with q := [[0x23], [0x24]] } (fun s => resp 2 s) = some [valueResponse (.size 2)] := by decide
theorem test_queryFull :
    sees (.queryFull 2) (small { up with q := [[0x23]] }) (fun s => resp 2 s) = some [valueResponse (.full true)] := by decide
theorem test_append :
    sees (.append 1 [0x24]) (holding { up with q := [[0x23]] } (.send [0x24]) 0) (fun s => (s.q, s.hostCmd 1, resp 1 s)) =
      some ([[0x23], [0x24]], none, [okResponse]) := by decide
theorem test_append_full :
    sees (.append 1 [0x24]) (small (holding { up with q := [[0x23]] } (.send [0x24]) 0)) (fun s => (s.q, s.hostCmd 1)) =
      some ([[0x23]], some (.send [0x24])) := by decide
theorem test_appendTimed :
    sees (.appendTimed 1 [0x28] 10) (small (holding { up with q := [[0x23]], now := 10 } (.sendTimed [0x28] 10) 10))
      (fun s => (s.q, resp 1 s, s.ev)) = some ([[0x23]], [timeoutResponse], [.deliveryFailure 1 0x4]) := by decide
theorem test_appendTimed_insert_first :
    sees (.appendTimed 1 [0x28] 10) (holding { up with now := 10 } (.sendTimed [0x28] 10) 10) (fun s => (s.q, resp 1 s)) =
      some ([[0x28]], [okResponse]) := by decide
theorem test_prepend :
    sees (.prepend [0x1D]) { rx .ack 2 [0x88, 0x00] 0x8A 0x17 [] with q := [[0x23], [0x24]] } (fun s => (s.q, s.rx.st)) =
      some ([[0x1D], [0x23], [0x24]], .gate) := by decide
theorem test_take :
    sees .take { tx .take [] false with q := [[0x1D], [0x23]] } (fun s => (s.q, s.tx.frame, s.tx.isAck)) =
      some ([[0x23]], [0x7E, 0x01, 0x1D, 0x1E, 0x1F], true) := by decide
theorem test_size :
    sees (.size 1) { up with q := [[0x23], [0x24]] } (fun s => resp 1 s) = some [valueResponse (.size 2)] := by decide
theorem test_isFull :
    sees (.isFull 1) { up with q := [[0x23], [0x24]] } (fun s => resp 1 s) = some [valueResponse (.full false)] := by decide
theorem test_flag :
    sees .flag up (fun s => s.wireIn) = some [.byte 0x7E] := by decide
theorem test_flag_closed :
    sees .flag State.reset (fun s => s.wireIn) = some [] := by decide
theorem test_escape :
    sees .escape up (fun s => s.wireIn) = some [.byte 0x7D] := by decide
theorem test_esc7E :
    sees .esc7E up (fun s => s.wireIn) = some [.byte 0x7D, .byte 0x5E] := by decide
theorem test_esc7D :
    sees .esc7D up (fun s => s.wireIn) = some [.byte 0x7D, .byte 0x5D] := by decide
theorem test_escIllegal :
    sees (.escIllegal 0x41) up (fun s => s.wireIn) = some [.byte 0x7D, .byte 0x41] := by decide
theorem test_frame :
    sees (.frame 2 [0x24, 0x00] 0x26 0x4E) up (fun s => s.wireIn) =
      some [.byte 0x7E, .byte 0x02, .byte 0x24, .byte 0x00, .byte 0x26, .byte 0x4E] := by decide
theorem test_ackreq :
    sees (.ackreq false 0x08) (rx .ack 2 [0x88, 0x00] 0x8A 0x17 []) (fun s => (s.q, s.rx.st)) = some ([[0x1D]], .gate) := by decide
theorem test_ackreq_other_type :
    sees (.ackreq false 0x09) (rx .ack 2 [0x88, 0x00] 0x8A 0x17 []) (fun s => (s.q, s.rx.st)) = some ([], .ack) := by decide
theorem test_typeBareAck :
    sees (.typeBareAck true false) { tx .take [] false with q := [[0x9D]] } (fun s => (s.q, s.tx.isAck)) = some ([], true) := by decide
theorem test_typeExempt :
    sees (.typeExempt true false) (rx .cs2 1 [0x85] 0x86 0x87 [0x00]) (fun s => (s.rx.ok, s.ev)) =
      some (true, [.cksumExempt 1 0x00 0x00 0x86 0x87]) := by decide
theorem test_notify :
    sees (.notify 2 .fault) (dispatching 1 none) (fun s => (s.notes, s.lisAns)) =
      some ([({ lid := 2, type6 := 0x08, payload := [0x88, 0x00] }, .fault)], some .fault) := by decide
theorem test_notify_not_next :
    sees (.notify 2 .accept) (dispatching 0 none) (fun s => (s.notes, s.lisAns)) = some ([], none) := by decide
theorem test_tReady :
    sees .tReady up (fun s => (s.gate, s.tx.st)) = some (false, .take) := by decide
theorem test_tTimeout :
    sees .tTimeout { tx .wait [] false with now := 5000 } (fun s => (s.gate, s.tx.st, s.ev)) = some (false, .take, [.gateTimeout]) := by decide
theorem test_tTimeout_early :
    sees .tTimeout { tx .wait [] false with now := 4999 } (fun s => (s.tx.st, s.ev)) = some (.wait, []) := by decide
theorem test_tCancel :
    sees .tCancel (closing .take .hunt) (fun s => (s.tx.st, s.ev)) = some (.stopped, [.txStopped .cancelled]) := by decide
theorem test_tTake :
    sees .tTake { tx .take [] true with q := [[0x24, 0x00]] } (fun s => (s.q, s.tx.frame, s.tx.isAck)) =
      some ([], [0x7E, 0x02, 0x24, 0x00, 0x26, 0x4E], false) := by decide
theorem test_tTake_stuffs :
    sees .tTake { tx .take [] true with q := [[0x7E, 0x7D, 0x7E]] } (fun s => s.tx.frame) =
      some [0x7E, 0x03, 0x7D, 0x5E, 0x7D, 0x5D, 0x7D, 0x5E, 0x7D, 0x01] := by decide
theorem test_tEmit :
    sees .tEmit { tx .send [0x1E, 0x1F] true with sinkAns := [.accept] } (fun s => (s.wireOut, s.tx.frame)) = some ([0x1E], [0x1F]) := by decide
theorem test_tWrerr :
    sees .tWrerr { tx .send [0x24, 0x00] false with sinkAns := [.error] } (fun s => (s.tx.st, s.wireOut, s.ev)) =
      some (.stopped, [], [.txStopped .writeError]) := by decide
theorem test_tEnd :
    sees .tEnd { tx .send [] true with now := 11 } (fun s => (s.gate, s.tx.st, s.tx.deadline)) = some (true, .wait, 5011) := by decide
theorem test_tEnd_no_ack :
    sees .tEnd { tx .send [] false with now := 11 } (fun s => (s.gate, s.tx.st)) = some (false, .wait) := by decide
theorem test_rHuntSkip :
    sees .rHuntSkip (rx .hunt 0 [] 0 0 [0x7D, 0x7E]) (fun s => (s.rx.st, s.wireIn)) = some (.hunt, [.byte 0x7E]) := by decide
theorem test_rHuntFlag :
    sees .rHuntFlag (rx .hunt 0 [] 0 0 [0x7E, 0x7E]) (fun s => (s.rx.st, s.wireIn)) = some (.len, [.byte 0x7E]) := by decide
theorem test_rLen :
    sees .rLen (rx .len 9 [0x33] 0 0 [0x02]) (fun s => (s.rx.st, s.rx.len, s.rx.buf, s.rx.s1, s.rx.s2)) = some (.data, 2, [], 2, 2) := by decide
theorem test_rLen_zero :
    sees .rLen (rx .len 9 [0x33] 0 0 [0x00]) (fun s => (s.rx.st, s.rx.buf)) = some (.cs1, []) := by decide
theorem test_rDataPlain :
    sees .rDataPlain (rx .data 2 [0x24] 38 40 [0x00]) (fun s => (s.rx.st, s.rx.buf, s.rx.s1, s.rx.s2)) =
      some (.cs1, [0x24, 0x00], 38, 78) := by decide
theorem test_rDataPlain_flag_value :
    sees .rDataPlain (rx .data 2 [] 2 2 [0x7E]) (fun s => (s.rx.st, s.rx.buf)) = some (.data, [0x7E]) := by decide
theorem test_rDataEsc :
    sees .rDataEsc (rx .data 2 [] 2 2 [0x7D]) (fun s => (s.rx.st, s.rx.esc, s.rx.buf)) = some (.data, true, []) := by decide
theorem test_rEscOk :
    sees .rEscOk (escaped 0x5E) (fun s => (s.rx.buf, s.rx.esc, s.rx.serr, s.rx.s1, s.rx.s2)) = some ([0x7E], false, false, 0x7F, 0x80) := by decide
theorem test_rEscBad :
    sees .rEscBad (escaped 0x41) (fun s => (s.rx.buf, s.rx.esc, s.rx.serr)) = some ([0x61], false, true) := by decide
theorem test_rEscBad_7D :
    sees .rEscBad (escaped 0x7D) (fun s => (s.rx.buf, s.rx.esc, s.rx.serr)) = some ([0x5D], false, true) := by decide
theorem test_rCs1 :
    sees .rCs1 (rx .cs1 2 [0x24, 0x00] 0x26 0x4E [0x26]) (fun s => (s.rx.st, s.rx.c1)) = some (.cs2, 0x26) := by decide
theorem test_rCs2 :
    sees .rCs2 { rx .cs2 2 [0x24, 0x00] 0x26 0x4E [0x6D] with
        rx := { (rx .cs2 2 [0x24, 0x00] 0x26 0x4E []).rx with c1 := 0xF7 } } (fun s => (s.rx.ok, s.ev)) =
      some (false, [.cksumMismatch 2 0xF7 0x6D 0x26 0x4E]) := by decide
theorem test_rCs2_runt :
    sees .rCs2 (rx .cs2 0 [] 0 0 [0x00]) (fun s => (s.rx.ok, s.rx.st, s.ev)) = some (true, .ack, [.runt]) := by decide
theorem test_rAckInsert :
    sees .rAckInsert { rx .ack 1 [0x80] 0x81 0x82 [] with q := [[0x23]] } (fun s => (s.q, s.rx.st)) = some ([[0x1D], [0x23]], .gate) := by decide
theorem test_rAckHold :
    sees .rAckHold (small { rx .ack 1 [0x80] 0x81 0x82 [] with q := [[0x23]] }) (fun s => (s.q, s.rx.st)) = some ([[0x23]], .ack) := by decide
theorem test_rAckAbort :
    sees .rAckAbort (small { rx .ack 1 [0x80] 0x81 0x82 [] with q := [[0x23]], cancel := true }) (fun s => (s.rx.st, s.ev)) =
      some (.stopped, [.ackDropped, .rxStopped .closed]) := by decide
theorem test_rAckNone :
    sees .rAckNone (rx .ack 1 [0x1D] 0x1E 0x1F []) (fun s => (s.q, s.rx.st)) = some ([], .gate) := by decide
theorem test_rGate :
    sees .rGate { rx .gate 1 [0x1D] 0x1E 0x1F [] with gate := false } (fun s => (s.gate, s.rx.st)) = some (true, .hunt) := by decide
theorem test_rGate_dispatch :
    sees .rGate { up with
        gate := false, reg := [1, 2], rx := { (RxRegs.powerOn : RxRegs LID) with st := .gate, len := 1, buf := [0x1D], ok := true } }
      (fun s => (s.gate, s.rx.st, s.rx.snap, s.rx.idx)) = some (true, .dispatch, [1, 2], 0) := by decide
theorem test_rDeliverOk :
    sees .rDeliverOk (dispatching 0 (some .accept)) (fun s => (s.rx.st, s.rx.idx, s.lisAns)) = some (.dispatch, 1, none) := by decide
theorem test_rDeliverFault :
    sees .rDeliverFault (dispatching 1 (some .fault)) (fun s => (s.rx.st, s.ev)) = some (.hunt, [.listenerFault 2 0x08]) := by decide
theorem test_rClose :
    sees .rClose { rx .data 2 [0x24] 38 40 [] with wireIn := [.closed] } (fun s => (s.rx.st, s.ev)) =
      some (.stopped, [.rxPartial 3, .rxStopped .closed]) := by decide
theorem test_rClose_hunt :
    sees .rClose { rx .hunt 0 [] 0 0 [] with wireIn := [.rdErr] } (fun s => (s.rx.st, s.ev)) = some (.stopped, [.rxStopped .readError]) := by decide
theorem test_disconnectComplete :
    sees .disconnectComplete (holding { closing .stopped .stopped with q := [[0x23]], reg := [1] } .disconnect 0)
      (fun s => (s.conn, s.q, s.reg, resp 1 s)) = some (.disconnected, [], [], [okResponse]) := by decide
theorem test_disconnectComplete_waits :
    sees .disconnectComplete (holding (closing .stopped .dispatch) .disconnect 0) (fun s => (s.conn, s.hostCmd 1)) =
      some (.closing, some .disconnect) := by decide
theorem test_insertRelease :
    sees (.insertRelease 1 .send) (holding (closing .stopped .stopped) (.send [0x24]) 0) (fun s => (s.q, resp 1 s, s.ev)) =
      some ([], [refusedResponse .notConnected], [.deliveryFailure 1 0x3]) := by decide

/-! ### Witnesses: for each statement with hypotheses, states and operands that meet them, clause by clause -/

/-- 255 bytes that all need stuffing: the longest message, and the longest frame. -/
def longest : Message := List.replicate 255 0x7E

theorem longest_length : longest.length ≤ 255 := le_of_eq List.length_replicate

theorem test_witness_ChecksumClosedForm : longest.length ≤ 255 := longest_length

theorem test_witness_ChecksumCornerCases :
    longest.length ≤ 255 ∧ (List.replicate 254 (0x01 : Byte) ++ 0x00 :: []).length ≤ 255 ∧
      [(0x01 : Byte)] = [0x01] ∧ ([0x01, 0x02, 0x03, 0x04] : Message).length ≤ 255 ∧
      ∃ i j : Fin ([0x01, 0x02, 0x03, 0x04] : Message).length, i.val = 0 ∧ j.val = 2 :=
  ⟨longest_length, by rw [List.length_append, List.length_replicate]; decide, rfl, by decide,
    ⟨0, by decide⟩, ⟨2, by decide⟩, rfl, rfl⟩

theorem test_witness_UnstuffInvertsStuff : stuffSeq [0x7E, 0x7D] = stuffSeq ([0x7E] ++ [0x7D]) := rfl

theorem test_witness_FrameWireLength : longest.length ≤ 255 ∧ ([] : Message).length ≤ 255 := ⟨longest_length, by simp⟩

theorem test_witness_StuffedDataHasNoFlag : longest.length ≤ 255 ∧ (List.replicate 126 (0x00 : Byte)).length ≤ 255 :=
  ⟨longest_length, by rw [List.length_replicate]; decide⟩

theorem test_witness_DecodeFrameRoundTrip : longest.length ≤ 255 ∧ ([] : Message).length ≤ 255 := ⟨longest_length, by simp⟩

theorem test_witness_DecodeEncodeAgree :
    WellFormed (.frame 1 [0x7D, 0x5D] 0x7E 0x7F) ∧ WellFormed (.frame 0 [] 0 0) ∧ WellFormed (.escIllegal 0x7E) ∧
      WellFormed (.append 0 longest) ∧ WellFormed (.appendTimed 0 longest 0) ∧ WellFormed (.prepend [0x1D]) ∧
      WellFormed (.insertRelease 0 .send) :=
  ⟨by decide, by decide, by decide, (wf_append _ _).mpr longest_length,
    (wf_appendTimed _ _ _).mpr longest_length, by decide, by decide⟩

/-- A choice placed in front. -/
def choosing (s : State) (c : Choice) : State := { s with sched := [c] }

theorem test_witness_UnissuedCodesFault :
    (choosing up (.act false (word .qport 0 [0x06] []))).fetch = .act false (word .qport 0 [0x06] []) ∧
      (word .qport 0 [0x06] []).code = [0x06] ∧ (word .qport 0 [0x06] []).fmt = .qport ∧
      6 ≤ (0x06 : Byte).toNat % 8 ∧ 6 ≤ (0x07 : Byte).toNat % 8 ∧ 5 ≤ (0x05 : Byte).toNat % 8 ∧
      5 ≤ (0x07 : Byte).toNat % 8 ∧ 10 ≤ (0x0A : Byte).toNat % 16 ∧ 10 ≤ (0x0F : Byte).toNat % 16 ∧
      (word .txstep 0 [0x05] []).fmt = .txstep ∧ (word .rxstep 0 [0x0A] []).fmt = .rxstep := by decide

theorem test_witness_PowerOnMeetsInv :
    Params.standard.legal ∧
      ({ qcap := 1, gateTimeoutMs := 0, lmax := 1, hosts := 1, gateConsume := .atTake } : Params).legal := by decide

/-- Everything in progress: the Transmitter sends the end of a bare acknowledgment, the Receiver is inside a frame, port 1
holds a SEND, and the next choice is a byte for the sink. -/
def busy : State :=
  { up with
    cfg := { Params.standard with qcap := 1 }
    gate := false, q := [[0x24, 0x00]], reg := [1, 2], sinkAns := [.accept]
    tx := { st := .send, deadline := 0, frame := [0x1F], isAck := true }
    rx := { (RxRegs.powerOn : RxRegs LID) with st := .data, len := 2, buf := [0x24], s1 := 38, s2 := 40 }
    host := [HostPort.powerOn, { cmd := some (.send [0x28]), deadline := 0, resp := [] }, HostPort.powerOn]
    sched := [.act false (word .txstep 0 [0x03] [0])] }

theorem busy_inv : busy.Inv where
  config := by decide
  queue := by decide
  registry := by decide
  conn :=
    show busy.streamOpen = true ∧ busy.cancel = false ∧ busy.tx.st ≠ .off ∧ busy.rx.st ≠ .off from by decide
  tx := ⟨by decide, fun _ => ⟨[0x1D], by decide, by decide, by decide⟩⟩
  rx := show busy.rx.buf.length < busy.rx.len.toNat ∧ busy.rx.sumsOk from ⟨by decide, by unfold RxRegs.sumsOk; decide⟩
  host := ⟨rfl, by simp [busy, HostPort.okIn, HostPort.powerOn], by decide⟩
  listener := fun _ => rfl

theorem test_witness_StepKeepsInv : busy.Inv ∧ ∃ t, step busy = .next t ∧ t.wireOut = [0x1F] :=
  ⟨busy_inv, _, rfl, rfl⟩

theorem test_witness_QueueChangesOnly : busy.Inv ∧ ∃ t, exec .tEmit busy = .next t := ⟨busy_inv, _, rfl⟩

theorem test_witness_StepRunsDecodedInstr :
    busy.sched = .act false (word .txstep 0 [0x03] [0]) :: [] ∧ up.sched = [] ∧
      (choosing up (.act true (word .hostcmd 0 [0x01] []))).fetch = .act true (word .hostcmd 0 [0x01] []) ∧
      decode (word .hostcmd 0 [0x01] []) = .ok (.connect 0) ∧ (choosing up (.clock 5)).fetch = .clock 5 ∧
      (choosing up (.wire [.closed])).fetch = .wire [.closed] ∧ (choosing up (.sink [.error])).fetch = .sink [.error] ∧
      (choosing up .wireLost).fetch = .wireLost ∧ (choosing up .sinkLost).fetch = .sinkLost := by decide

theorem test_witness_InstructionsOnlyAppend : ∃ t, exec .tEmit busy = .next t ∧ t.wireOut ≠ busy.wireOut :=
  ⟨_, rfl, by decide⟩

theorem next_ne {i : Instr} {s : State} (h : (after (exec i s) == some s) = false) : exec i s ≠ .next s := fun e => by
  simp [e, after] at h

theorem test_witness_OneStepPerAgent :
    Instr.tReady ∈ txSteps ∧ exec .tReady up ≠ .next up ∧ Instr.rLen ∈ rxSteps ∧
      exec .rLen (rx .len 0 [] 0 0 [0x02]) ≠ .next (rx .len 0 [] 0 0 [0x02]) :=
  ⟨by decide, next_ne (by decide), by decide, next_ne (by decide)⟩

theorem test_witness_ConnectionLifecycle :
    ∃ t, exec (.disconnect 0) up = .next t ∧ up.streamOpen = true ∧ t.streamOpen = false := ⟨_, rfl, rfl, rfl⟩

theorem test_witness_GateWriters :
    (∃ t, exec .tEnd (tx .send [] true) = .next t ∧ (tx .send [] true).gate = false ∧ t.gate = true) ∧
      ∃ t, exec .tReady up = .next t ∧ up.gate = true ∧ t.gate = false :=
  ⟨⟨_, rfl, rfl, rfl⟩, _, rfl, rfl, rfl⟩

theorem test_witness_ConnectStartsConnection :
    State.reset.idleAt 0 HostPort.powerOn ∧ State.reset.conn = .disconnected ∧ up.idleAt 2 HostPort.powerOn ∧
      up.conn ≠ .disconnected := by decide

theorem test_witness_DisconnectCommand :
    up.idleAt 0 HostPort.powerOn ∧ up.conn = .connected ∧ State.reset.idleAt 0 HostPort.powerOn ∧
      State.reset.conn = .disconnected ∧ (closing .send .dispatch).idleAt 0 HostPort.powerOn ∧
      (closing .send .dispatch).conn = .closing := by decide

theorem test_witness_DisconnectCommand_stream :
    (∃ t, exec (.disconnect 0) up = .next t ∧ up.streamOpen = true ∧ t.streamOpen = false) ∧
      (∃ t, exec (.connect 0) (holding up .disconnect 0) = .next t) ∧
      (holding up .disconnect 0).host[1]? = some { cmd := some .disconnect, deadline := 0, resp := [] } ∧
      (.connect 0 : Instr) ≠ .disconnectComplete := ⟨⟨_, rfl, rfl, rfl⟩, ⟨_, rfl⟩, rfl, by decide⟩

theorem test_witness_DisconnectCompletes :
    (closing .stopped .stopped).conn = .closing ∧ (closing .stopped .stopped).tx.st = .stopped ∧
      (closing .stopped .stopped).rx.st = .stopped ∧ ¬ ((closing .stopped .dispatch).rx.st = .stopped) := by decide

theorem test_witness_SendQueuesOrHolds :
    State.reset.idleAt 0 HostPort.powerOn ∧ State.reset.conn ≠ .connected ∧ up.idleAt 0 HostPort.powerOn ∧
      up.conn = .connected ∧ up.q.length < up.cfg.qcap ∧ up.split = false ∧
      ¬ ((small { up with q := [[]] }).q.length < (small { up with q := [[]] }).cfg.qcap) ∧
      (small { up with q := [[]] }).idleAt 0 HostPort.powerOn := by decide

theorem test_witness_SendQueuesOrHolds_length : longest.length ≤ 255 ∧ 255 < (0x00 :: longest).length :=
  ⟨longest_length, by rw [List.length_cons, longest, List.length_replicate]; decide⟩

theorem test_witness_AppendInsertsHeldMessage :
    (holding up (.send [0x24]) 0).host[1]? = some { cmd := some (.send [0x24]), deadline := 0, resp := [] } ∧
      (holding up (.setClock [0x3B]) 0).host[1]? = some { cmd := some (.setClock [0x3B]), deadline := 0, resp := [] } ∧
      (holding up (.send [0x24]) 0).conn = .connected ∧
      (holding up (.send [0x24]) 0).q.length < (holding up (.send [0x24]) 0).cfg.qcap ∧
      (small (holding { up with q := [[]] } (.send [0x24]) 0)).cfg.qcap ≤
        (small (holding { up with q := [[]] } (.send [0x24]) 0)).q.length := by decide

theorem test_witness_SendTimedIssues :
    State.reset.idleAt 0 HostPort.powerOn ∧ State.reset.conn ≠ .connected ∧ up.idleAt 0 HostPort.powerOn ∧
      up.conn = .connected ∧ up.q.length < up.cfg.qcap ∧ up.split = false ∧ { up with split := true }.split ≠ false ∧
      { up with split := true }.idleAt 0 HostPort.powerOn := by decide

/-- A full queue of one, port 1 held in SEND_TIMED until time 10. -/
def waiting (now : Nat) : State := small (holding { up with q := [[0x23]], now := now } (.sendTimed [0x28] 10) 10)

theorem test_witness_AppendTimedInsertsOrTimesOut :
    (waiting 10).host[1]? = some { cmd := some (.sendTimed [0x28] 10), deadline := 10, resp := [] } ∧
      (waiting 10).conn = .connected ∧ (waiting 10).q.length = (waiting 10).cfg.qcap ∧ 10 ≤ (waiting 10).now ∧
      (waiting 9).now < 10 ∧ (holding up (.sendTimed [0x28] 10) 10).q.length < up.cfg.qcap := by decide

theorem test_witness_SetClockQueuesMessage :
    up.idleAt 0 HostPort.powerOn ∧ up.conn = .connected ∧ up.q.length < up.cfg.qcap ∧ up.split = false ∧
      { up with split := true }.split ≠ false ∧ State.reset.idleAt 0 HostPort.powerOn ∧ State.reset.conn ≠ .connected ∧
      clockFieldsOk 2000 1 1 0 0 1 = true ∧ clockFieldsOk 2255 12 31 23 59 7 = true ∧
      clockFieldsOk 1999 1 1 0 0 1 = false ∧ clockFieldsOk 2256 1 1 0 0 1 = false ∧ clockFieldsOk 2000 0 1 0 0 1 = false ∧
      clockFieldsOk 2000 1 32 0 0 1 = false ∧ clockFieldsOk 2000 1 1 24 0 1 = false ∧
      clockFieldsOk 2000 1 1 0 60 1 = false ∧ clockFieldsOk 2000 1 1 0 0 8 = false := by decide

theorem test_witness_InsertReleasedByDisconnect :
    (holding (closing .wait .hunt) (.send [0x24]) 0).host[1]? =
        some { cmd := some (.send [0x24]), deadline := 0, resp := [] } ∧
      (holding (closing .wait .hunt) (.sendTimed [0x24] 3) 0).host[1]? =
        some { cmd := some (.sendTimed [0x24] 3), deadline := 0, resp := [] } ∧
      (holding State.reset (.setClock [0x3B]) 0).host[1]? =
        some { cmd := some (.setClock [0x3B]), deadline := 0, resp := [] } ∧
      (holding (closing .wait .hunt) (.send [0x24]) 0).conn ≠ .connected ∧
      (holding up (.send [0x24]) 0).conn = .connected := by decide

theorem test_witness_SubscribeUnsubscribe :
    State.reset.idleAt 0 HostPort.powerOn ∧ State.reset.conn ≠ .connected ∧ up.idleAt 0 HostPort.powerOn ∧
      up.conn = .connected ∧ 3 ∈ { up with reg := [3] }.reg ∧ 9 ∉ { up with reg := [1, 2, 3, 4, 5, 6, 7, 8] }.reg ∧
      { up with reg := [1, 2, 3, 4, 5, 6, 7, 8] }.reg.length = up.cfg.lmax ∧ up.reg.length ≠ up.cfg.lmax := by decide

theorem test_witness_QueriesAnswer : up.idleAt 2 HostPort.powerOn ∧ State.reset.idleAt 0 HostPort.powerOn := by decide

theorem test_witness_ReservedOpsRefused : State.reset.idleAt 1 HostPort.powerOn := by decide

theorem test_witness_BusyPortHolds :
    (holding up .disconnect 0).host[1]? = some { cmd := some .disconnect, deadline := 0, resp := [] } ∧
      up.host[3]? = none := by decide

theorem test_witness_GateWaitExits :
    up.tx.st = .wait ∧ up.cancel = false ∧ up.gate = true ∧ (tx .wait [] false).tx.st = .wait ∧
      (tx .wait [] false).cancel = false ∧ (tx .wait [] false).gate = false ∧
      (tx .wait [] false).tx.deadline ≤ { tx .wait [] false with now := 5000 }.now ∧
      { tx .wait [] false with now := 4999 }.now < (tx .wait [] false).tx.deadline := by decide

theorem test_witness_CancelStopsTransmitter :
    (closing .wait .hunt).tx.st = .wait ∧ (closing .take .hunt).tx.st = .take ∧ (closing .wait .hunt).cancel = true ∧
      (closing .send .hunt).tx.st = .send ∧ up.cancel = false := by decide

theorem test_witness_TakeFramesHead :
    { tx .take [] false with q := [[0x1D], []] }.tx.st = .take ∧ (tx .take [] false).cancel = false ∧
      { tx .take [] false with q := [[0x1D], []] }.q = [0x1D] :: [[]] ∧ (tx .take [] false).q = [] := by decide

theorem test_witness_EmitWritesOneByte :
    busy.tx.st = .send ∧ busy.tx.frame = 0x1F :: [] ∧ busy.streamOpen = true ∧ busy.sinkAns = .accept :: [] ∧
      (tx .send [0x1F] true).sinkAns = [] := by decide

theorem test_witness_WriteErrorStopsTransmitter :
    (tx .send [0x24] false).tx.st = .send ∧ (tx .send [0x24] false).tx.frame = 0x24 :: [] ∧
      { tx .send [0x24] false with streamOpen := false }.streamOpen = false ∧ (tx .send [0x24] false).streamOpen = true ∧
      { tx .send [0x24] false with sinkAns := [.error] }.sinkAns = .error :: [] := by decide

theorem test_witness_EndOfFrame : (tx .send [] true).tx.st = .send ∧ (tx .send [] true).tx.frame = [] := by decide

theorem test_witness_TransmitterWritesWholeFrame :
    { up with q := [[]], sinkAns := List.replicate 4 .accept }.sinkAns =
        List.replicate (encodeFrame []).length .accept ++ [] ∧
      up.tx.st = .wait ∧ up.cancel = false ∧ up.streamOpen = true ∧ { up with q := [[]] }.q = [] :: [] ∧ up.gate = true ∧
      (tx .wait [] false).gate = false ∧ (tx .wait [] false).tx.deadline ≤ { tx .wait [] false with now := 5000 }.now := by
  decide

theorem test_witness_WireShapeKept :
    (∃ t, step busy = .next t ∧ busy.conn ≠ .disconnected) ∧
      { busy with wireOut := [0x33, 0x7E, 0x01, 0x1D, 0x1E] }.wireShape [0x33] ∧
      ∃ t, step (choosing State.reset (.act false (word .hostcmd 0 [0x01] []))) = .next t ∧ t.conn = .connected :=
  ⟨⟨_, rfl, by decide⟩, ⟨[], [0x1D], [0x7E, 0x01, 0x1D, 0x1E], by decide, by decide, by decide, by decide⟩, _, rfl, rfl⟩

theorem test_witness_HuntForFlag :
    (rx .hunt 0 [] 0 0 [0x7D]).rx.st = .hunt ∧ (rx .hunt 0 [] 0 0 [0x7D]).streamOpen = true ∧
      (rx .hunt 0 [] 0 0 [0x7D]).wireIn = .byte 0x7D :: [] ∧ (0x7D : Byte) ≠ 0x7E ∧
      (rx .hunt 0 [] 0 0 [0x7E]).wireIn = .byte 0x7E :: [] := by decide

theorem test_witness_LengthByteStartsFrame :
    (rx .len 0 [] 0 0 [0x00]).rx.st = .len ∧ (rx .len 0 [] 0 0 [0x00]).streamOpen = true ∧
      (rx .len 0 [] 0 0 [0x00]).wireIn = .byte 0x00 :: [] := by decide

theorem test_witness_DataBytes :
    (rx .data 2 [] 2 2 [0x7E]).rx.st = .data ∧ (rx .data 2 [] 2 2 [0x7E]).streamOpen = true ∧
      (rx .data 2 [] 2 2 [0x7E]).wireIn = .byte 0x7E :: [] ∧ (rx .data 2 [] 2 2 [0x7E]).rx.esc = false ∧
      (rx .data 2 [] 2 2 [0x7D]).wireIn = .byte 0x7D :: [] ∧ (escaped 0x5E).rx.esc = true ∧
      (escaped 0x5E).wireIn = .byte 0x5E :: [] ∧ (escaped 0x5D).wireIn = .byte 0x5D :: [] ∧
      (escaped 0x7D).wireIn = .byte 0x7D :: [] ∧ (escaped 0x5E).rx.st = .data ∧ (escaped 0x5E).streamOpen = true := by decide

theorem test_witness_ChecksumBytes :
    (rx .cs1 0 [] 0 0 [0x7E]).rx.st = .cs1 ∧ (rx .cs1 0 [] 0 0 [0x7E]).streamOpen = true ∧
      (rx .cs1 0 [] 0 0 [0x7E]).wireIn = .byte 0x7E :: [] ∧ (rx .cs2 1 [0x05] 6 7 [0x00]).rx.st = .cs2 ∧
      (rx .cs2 1 [0x05] 6 7 [0x00]).wireIn = .byte 0x00 :: [] := by decide

/-- A frame that asks for an acknowledgment, completely read. -/
def asking : State := rx .ack 1 [0x80] 0x81 0x82 []

theorem test_witness_AcknowledgmentInserted :
    asking.rx.st = .ack ∧ asking.rx.buf = 0x80 :: [] ∧ 1 ≤ asking.rx.len.toNat ∧ (0x80 : Byte).getLsbD 7 = true ∧
      asking.q.length < asking.cfg.qcap := by decide

theorem test_witness_AcknowledgmentHeldOrAborted :
    asking.rx.st = .ack ∧ asking.rx.buf = 0x80 :: [] ∧ 1 ≤ asking.rx.len.toNat ∧ (0x80 : Byte).getLsbD 7 = true ∧
      (small { asking with q := [[]] }).q.length = (small { asking with q := [[]] }).cfg.qcap ∧
      (small { asking with q := [[]] }).cancel = false ∧
      (small { asking with q := [[]], cancel := true }).cancel = true := by decide

theorem test_witness_NoAcknowledgmentAsked :
    (rx .ack 0 [] 0 0 []).rx.st = .ack ∧ (rx .ack 0 [] 0 0 []).rx.len.toNat = 0 ∧
      (rx .ack 1 [0x7F] 0 0 []).rx.buf = 0x7F :: [] ∧ (0x7F : Byte).getLsbD 7 = false := by decide

theorem test_witness_GateSetAndDispatchStarts :
    (rx .gate 1 [0x1D] 0x1E 0x1F []).rx.st = .gate ∧ 1 ≤ (rx .gate 1 [0x1D] 0x1E 0x1F []).rx.len.toNat ∧
      { (rx .gate 1 [0x1D] 0x1E 0x1F []).rx with ok := true }.ok = true ∧
      ¬ ((rx .gate 1 [0x1D] 0x1E 0x1F []).rx.ok = true) := by decide

theorem test_witness_ListenerNotified :
    (dispatching 1 none).rx.st = .dispatch ∧ (dispatching 1 none).rx.buf = 0x88 :: [0x00] ∧
      (dispatching 1 none).rx.snap[(dispatching 1 none).rx.idx]? = some 2 ∧ (dispatching 1 none).lisAns = none ∧
      (1 : LID) ≠ 2 := by decide

theorem test_witness_DeliveryAdvances :
    (dispatching 1 none).rx.st = .dispatch ∧ (dispatching 1 none).rx.buf = 0x88 :: [0x00] ∧
      (dispatching 1 none).rx.snap[(dispatching 1 none).rx.idx]? = some 2 ∧ (dispatching 1 none).lisAns = none ∧
      (dispatching 1 (some .accept)).lisAns = some .accept ∧ (dispatching 0 (some .fault)).lisAns = some .fault := by decide

theorem test_witness_DispatchReachesEveryListener :
    (dispatching 0 none).rx.st = .dispatch ∧ (dispatching 0 none).rx.buf = 0x88 :: [0x00] ∧
      (dispatching 0 none).rx.idx = 0 ∧ (dispatching 0 none).lisAns = none ∧
      [((1 : LID), ListenerAnswer.fault), (2, .accept)] ≠ [] ∧
      (dispatching 0 none).rx.snap = [((1 : LID), ListenerAnswer.fault), (2, .accept)].map Prod.fst := by decide

theorem test_witness_ReceiverCloses :
    (closing .wait .cs2).rx.st ∈ [RxSt.hunt, .len, .data, .cs1, .cs2] ∧ (closing .wait .cs2).streamOpen = false ∧
      (rx .hunt 0 [] 0 0 []).rx.st ∈ [RxSt.hunt, .len, .data, .cs1, .cs2] ∧ (rx .hunt 0 [] 0 0 []).streamOpen = true ∧
      { rx .hunt 0 [] 0 0 [] with wireIn := [.closed] }.wireIn = .closed :: [] ∧
      { rx .hunt 0 [] 0 0 [] with wireIn := [.rdErr] }.wireIn = .rdErr :: [] := by decide

theorem test_witness_ReceiverComputesDecodeFrame :
    decodeFrame [0x00, 0x7E, 0x01, 0x7D, 0x33, 0x00, 0x00, 0x55] = some ([0x13], false, [0x55]) ∧
      (rx .hunt 0 [] 0 0 [0x00, 0x7E, 0x01, 0x7D, 0x33, 0x00, 0x00, 0x55]).wireIn =
        [0x00, 0x7E, 0x01, 0x7D, 0x33, 0x00, 0x00, 0x55].map .byte ++ [] ∧
      (rx .hunt 0 [] 0 0 []).rx.st = .hunt ∧ (rx .hunt 0 [] 0 0 []).streamOpen = true ∧
      (rx .hunt 0 [] 0 0 [0x7E, 0x01, 0x1D, 0x1E, 0x1F]).wireIn = (encodeFrame [0x1D]).map .byte ++ [] := by decide

theorem test_witness_RowsOfOneStep :
    { tx .take [] false with q := [[0x9D]] }.q = (typeByte true false bareAckType :: []) :: [] ∧
      (tx .take [] false).tx.st = .take ∧ (tx .take [] false).cancel = false ∧ up.q = [] ∧
      asking.rx.st = .ack ∧ asking.rx.buf = typeByte true false 0x00 :: [] ∧ 1 ≤ asking.rx.len.toNat ∧
      asking.q.length < asking.cfg.qcap ∧
      (small { asking with q := [[]] }).q.length = (small { asking with q := [[]] }).cfg.qcap ∧
      asking.cancel = false ∧ (rx .cs2 1 [0x85] 0x86 0x87 [0x00]).rx.st = .cs2 ∧
      (rx .cs2 1 [0x85] 0x86 0x87 [0x00]).streamOpen = true ∧
      (rx .cs2 1 [0x85] 0x86 0x87 [0x00]).wireIn = .byte 0x00 :: [] ∧
      (rx .cs2 1 [0x85] 0x86 0x87 [0x00]).rx.buf = typeByte true false exemptType :: [] := by decide

theorem test_witness_EscapePairsDecode :
    (rx .data 2 [] 2 2 []).rx.st = .data ∧ (rx .data 2 [] 2 2 []).rx.esc = false ∧
      (rx .data 2 [] 2 2 []).streamOpen = true ∧ (rx .data 2 [] 2 2 []).wireIn = [] ∧ (0x7E : Byte) ≠ 0x5E ∧
      (0x7E : Byte) ≠ 0x5D := by decide

theorem test_witness_RingRealisesQueue :
    ({ slots := [[0x01], [0x02]], hd := 1, cnt := 1 } : Ring).wf ∧ ({ slots := [[]], hd := 0, cnt := 1 } : Ring).wf ∧
      ({ slots := [[]], hd := 0, cnt := 0 } : Ring).wf := by decide


theorem test_witness_CodesAndBuild :
    (∃ t q, State.reset.host[0]? = some HostPort.powerOn ∧ exec (.connect 0) State.reset = .next t ∧ t.host[0]? = some q) ∧
      ∃ t p q, up.host[0]? = some p ∧ exec (.connect 0) up = .next t ∧ t.host[0]? = some q :=
  ⟨⟨_, _, rfl, rfl, rfl⟩, _, _, _, rfl, rfl, rfl⟩

theorem test_witness_PowerOnState :
    issuePort (.isFull 0 : Instr) = some 0 ∧ issuePort (.connect 2 : Instr) = some 2 ∧ 2 < Params.standard.hosts ∧
      isNext (step (State.reset.choosing (.act true (word .hostcmd 2 [0x01] [])))) = true ∧
      isNext (step (State.reset.choosing (.wire [.closed]))) = true := by decide

theorem test_witness_WireCodesSupplied : State.reset.streamOpen = false ∧ up.streamOpen = true := ⟨rfl, rfl⟩

end Sys2Proof.Tests
end

section
/-! Settles O15 (00_scope R7, 60_exceptions R186). Every meaning ends in a next state or in a hold, whatever enables it, so
none can stop. The lemmas are over any type of listener identifiers (00_scope R12), as the meanings are. -/

namespace Sys2Proof.Machine

variable {L : Type}

/-- The outcome is a next state: no fault and no refusal. -/
def AnswersNext (r : Result L) : Prop := ∃ t, r = .next t

theorem answersNext_next (t : State L) : AnswersNext (.next t) := ⟨t, rfl⟩

theorem answersNext_hold (s : State L) : AnswersNext (hold s) := answersNext_next s

theorem AnswersNext.ite {p : Prop} [Decidable p] {a b : Result L} (ha : AnswersNext a) (hb : AnswersNext b) :
    AnswersNext (if p then a else b) := by
  split
  · exact ha
  · exact hb

/-- A step enabled by a condition: its effect where the condition holds, else a hold. -/
theorem answersNext_enabled (p : Prop) [Decidable p] (s t : State L) : AnswersNext (if p then .next t else hold s) :=
  .ite (answersNext_next t) (answersNext_hold s)

/-- A step disabled by a condition. -/
theorem answersNext_disabled (p : Prop) [Decidable p] (s t : State L) : AnswersNext (if p then hold s else .next t) :=
  .ite (answersNext_hold s) (answersNext_next t)

/-! ### The shared steps -/

theorem takeStep_answersNext (s : State L) : AnswersNext (takeStep s) := by
  unfold takeStep
  split
  · exact answersNext_next _
  · exact answersNext_hold s

theorem ackInsertStep_answersNext (s : State L) : AnswersNext (ackInsertStep s) := answersNext_enabled _ s _

theorem ackAbortStep_answersNext (s : State L) : AnswersNext (ackAbortStep s) := answersNext_enabled _ s _

theorem cs2Step_answersNext (s : State L) : AnswersNext (cs2Step s) := by
  unfold cs2Step
  split
  · exact answersNext_next _
  · exact answersNext_hold s

/-! ### Every instruction -/

/-- One case per shape of a meaning: a command's issue step, a step under one condition, a step that matches what it reads
and may then check it, and the rows that name a shared step. -/
theorem execOver_answersNext [DecidableEq L] (i : Instr L) (s : State L) : AnswersNext (execOver i s) := by
  cases i with
  | reserved0 h | connect h | disconnect h | send h msg | sendTimed h msg tMs | subscribe h lid | unsubscribe h lid
  | setClock h year month day hour minute dow | querySize h | queryFull h | reservedA h | reservedB h | reservedC h
  | reservedD h | reservedE h | reservedF h | size h | isFull h => exact answersNext_enabled (s.portIdle h = true) s _
  | tReady | tTimeout | tCancel | tEnd | rAckNone | disconnectComplete => exact answersNext_enabled _ s _
  | flag | escape | esc7E | esc7D | escIllegal | frame => exact answersNext_next _
  | rAckHold => exact answersNext_hold s
  | rGate => exact .ite (.ite (answersNext_next _) (answersNext_next _)) (answersNext_hold s)
  | appendTimed => exact .ite (.ite (answersNext_next _) (answersNext_enabled _ s _)) (answersNext_hold s)
  | take | tTake => exact takeStep_answersNext s
  | rCs2 => exact cs2Step_answersNext s
  | rAckInsert => exact ackInsertStep_answersNext s
  | rAckAbort => exact ackAbortStep_answersNext s
  | prepend => exact .ite (ackInsertStep_answersNext s) (answersNext_hold s)
  | ackreq => exact .ite (.ite (ackInsertStep_answersNext s) (ackAbortStep_answersNext s)) (answersNext_hold s)
  | typeBareAck => exact .ite (takeStep_answersNext s) (answersNext_hold s)
  | typeExempt => exact .ite (cs2Step_answersNext s) (answersNext_hold s)
  | tEmit | rLen | rCs1 | rDeliverOk | rDeliverFault =>
    dsimp only [execOver, execTEmit, execRLen, execRCs1, execRDeliverOk, execRDeliverFault]
    split
    · exact answersNext_next _
    · exact answersNext_hold s
  | tWrerr | rClose =>
    dsimp only [execOver, execTWrerr, execRClose]
    split
    · exact answersNext_next _
    · exact answersNext_next _
    · exact answersNext_hold s
  | append | insertRelease | notify | rHuntFlag | rDataEsc | rEscOk =>
    dsimp only [execOver, execAppend, execInsertRelease, execNotify, execRHuntFlag, execRDataEsc, execREscOk]
    split
    · exact answersNext_enabled _ s _
    · exact answersNext_hold s
  | rHuntSkip | rDataPlain | rEscBad =>
    dsimp only [execOver, execRHuntSkip, execRDataPlain, execREscBad]
    split
    · exact answersNext_disabled _ s _
    · exact answersNext_hold s

/-- Settles O15: `exec` is the machine over any type of identifiers at `LID`, and there every meaning answers a next
state. -/
theorem everyInstructionAnswersNext : Obligations.EveryInstructionAnswersNext := by
  intro i s
  rw [exec_eq_execOver]
  exact execOver_answersNext i s

end Sys2Proof.Machine
end

section
/-! Settles O14 (00_scope R18): one equation for the choice a step takes up, and one for each kind of choice it carries
out. -/

namespace Sys2Proof.Machine

section
variable {L : Type} {s : State L} {c : Choice} {rest : List Choice}

theorem State.fetch_cons (h : s.sched = c :: rest) : s.fetch = c := by simp only [State.fetch, h]

theorem State.fetched_cons (h : s.sched = c :: rest) : s.fetched = { s with sched := rest } := by
  simp only [State.fetched, h]

theorem State.fetch_nil (h : s.sched = []) : s.fetch = Config.environment s.draws := by simp only [State.fetch, h]

theorem State.fetched_nil (h : s.sched = []) : s.fetched = { s with draws := s.draws + 1 } := by
  simp only [State.fetched, h, State.drawn]

/-- Offering symbols touches the source's list alone, and that while the stream is open. -/
theorem State.offerSymbols_eq (s : State L) (xs : List Symbol) :
    s.offerSymbols xs = { s with wireIn := if s.streamOpen then s.wireIn ++ xs else s.wireIn } := by
  by_cases ho : s.streamOpen = true
  · rw [State.offerSymbols_open s xs ho, if_pos ho]
  · rw [State.offerSymbols_closed s xs (by simpa using ho), if_neg ho]

/-- Offering answers touches the sink's list alone, and that while the stream is open. -/
theorem State.offerAnswers_eq (s : State L) (xs : List SinkAnswer) :
    s.offerAnswers xs = { s with sinkAns := if s.streamOpen then s.sinkAns ++ xs else s.sinkAns } := by
  by_cases ho : s.streamOpen = true
  · rw [State.offerAnswers_open s xs ho, if_pos ho]
  · rw [State.offerAnswers_closed s xs (by simpa using ho), if_neg ho]
end

section
variable {s : State}

theorem step_act {split : Bool} {p : Packet} {i : Instr} (hf : s.fetch = .act split p) (hd : decode p = .ok i) :
    step s = exec i (s.fetched.withSplit split) := by simp only [step, hf, hd]

theorem step_clock {ms : Nat} (hf : s.fetch = .clock ms) : step s = .next (s.fetched.tick ms) := by
  simp only [step, hf]

theorem step_wire {xs : List Symbol} (hf : s.fetch = .wire xs) : step s = .next (s.fetched.offerSymbols xs) := by
  simp only [step, hf]

theorem step_sink {xs : List SinkAnswer} (hf : s.fetch = .sink xs) : step s = .next (s.fetched.offerAnswers xs) := by
  simp only [step, hf]

theorem step_wireLost (hf : s.fetch = .wireLost) : step s = .next s.fetched.dropSymbols := by simp only [step, hf]

theorem step_sinkLost (hf : s.fetch = .sinkLost) : step s = .next s.fetched.dropAnswers := by simp only [step, hf]
end

/-- Settles O14: each clause is the equation of its choice; the registers it reads are those before the choice was taken
up, which touches `sched` and `draws` alone. -/
theorem stepRunsDecodedInstr : Obligations.StepRunsDecodedInstr := by
  refine ⟨?front, ?free, ?act, ?clock, ?wire, ?sink, ?wireLost, ?sinkLost⟩
  case front => exact fun s c rest h => ⟨State.fetch_cons h, State.fetched_cons h⟩
  case free => exact fun s h => ⟨State.fetch_nil h, State.fetched_nil h⟩
  case act => exact fun s split p i hf hd => step_act hf hd
  case clock =>
    intro s ms hf
    rw [step_clock hf, State.tick, State.fetched_now]
  case wire =>
    intro s xs hf
    rw [step_wire hf, State.offerSymbols_eq]
    simp only [State.fetched_streamOpen, State.fetched_wireIn]
  case sink =>
    intro s xs hf
    rw [step_sink hf, State.offerAnswers_eq]
    simp only [State.fetched_streamOpen, State.fetched_sinkAns]
  case wireLost => exact fun s hf => step_wireLost hf
  case sinkLost => exact fun s hf => step_sinkLost hf

end Sys2Proof.Machine
end

section
/-! Settles O16 (10_state R36 to R38, R42). What an instruction does is put together from a few operations on the state;
each is shown once to keep the frame, and the frame composes. T_EMIT alone writes the wire record. -/

namespace Sys2Proof.Machine

variable {s t u : State}

/-- What every instruction keeps: the clock, the configuration, the schedule and the number of ports stand, and the event
log and the notifications are extended at their ends (10_state R36, R37, R42). -/
structure Framed (s t : State) : Prop where
  now : t.now = s.now
  cfg : t.cfg = s.cfg
  sched : t.sched = s.sched
  ports : t.host.length = s.host.length
  ev : s.ev <+: t.ev
  notes : s.notes <+: t.notes

/-- The frame of every instruction but T_EMIT: no byte is written to the wire either (10_state R38). -/
structure Silent (s t : State) : Prop extends Framed s t where
  wireOut : t.wireOut = s.wireOut

/-- The fields `Silent` speaks of. -/
def State.recorded (s : State) :
    Nat × Params × List Choice × Nat × List (Event LID) × List (Notification LID × ListenerAnswer) × List Byte :=
  (s.now, s.cfg, s.sched, s.host.length, s.ev, s.notes, s.wireOut)

/-- A change of other fields. -/
theorem Silent.of_recorded (h : t.recorded = s.recorded) : Silent s t := by
  simp only [State.recorded, Prod.mk.injEq] at h
  obtain ⟨hnow, hcfg, hsched, hports, hev, hnotes, hwire⟩ := h
  exact ⟨⟨hnow, hcfg, hsched, hports, by rw [hev], by rw [hnotes]⟩, hwire⟩

theorem Silent.refl (s : State) : Silent s s := .of_recorded rfl

theorem Silent.trans (h₁ : Silent s t) (h₂ : Silent t u) : Silent s u where
  now := h₂.now.trans h₁.now
  cfg := h₂.cfg.trans h₁.cfg
  sched := h₂.sched.trans h₁.sched
  ports := h₂.ports.trans h₁.ports
  ev := h₁.ev.trans h₂.ev
  notes := h₁.notes.trans h₂.notes
  wireOut := h₂.wireOut.trans h₁.wireOut

/-! ### The operations on the state -/

theorem raise_silent (s : State) (es : List (Event LID)) : Silent s (s.raise es) :=
  ⟨⟨rfl, rfl, rfl, rfl, List.prefix_append .., List.prefix_rfl⟩, rfl⟩

theorem setHost_silent (s : State) (h : Nat) (f : HostPort → HostPort) : Silent s (s.setHost h f) :=
  .of_recorded (by simp [State.recorded])

theorem setCmd_silent (s : State) (h : Nat) (c : HostCmd) : Silent s (s.setCmd h c) := setHost_silent s h _

theorem respond_silent (s : State) (h : Nat) (r : Response) : Silent s (s.respond h r) := setHost_silent s h _

theorem refuse_silent (s : State) (h : Nat) (op : BitVec 4) (r : Reason) : Silent s (s.refuse h op r) :=
  (respond_silent s h _).trans (raise_silent _ _)

theorem insertAndRespond_silent (s : State) (h : Nat) (m : Message) : Silent s (s.insertAndRespond h m) :=
  .trans (t := s.enqueue m) (.of_recorded rfl) (respond_silent _ h _)

theorem insertOrHold_silent (s : State) (h : Nat) (m : Message) (c : HostCmd) : Silent s (s.insertOrHold h m c) := by
  rcases insertOrHold_cases s h m c with ⟨-, hi⟩ | hi <;> rw [hi]
  · exact insertAndRespond_silent s h m
  · exact setCmd_silent s h c

/-- The checks of a SEND keep the frame if what follows them does. -/
theorem sendChecks_silent {h : Nat} {op : BitVec 4} {m : Message} {k : State → State} (hk : Silent s (k s)) :
    Silent s (s.sendChecks h op m k) := by
  rcases sendChecks_cases s h op m k with ⟨-, hc⟩ | ⟨-, -, hc⟩ | ⟨-, -, hc⟩ <;> rw [hc]
  · exact refuse_silent s h op _
  · exact refuse_silent s h op _
  · exact hk

theorem sendIssue_silent (s : State) (h : Nat) (op : BitVec 4) (m : Message) (c : HostCmd) :
    Silent s (s.sendIssue h op m c) := sendChecks_silent (insertOrHold_silent s h m c)

theorem txStop_silent (s : State) (r : TxStopReason) : Silent s (s.txStop r) :=
  (raise_silent s _).trans (.of_recorded rfl)

theorem consumeSymbol_silent (s : State) : Silent s s.consumeSymbol := .of_recorded (by simp [State.recorded])

/-- A read by the Receiver: the symbol is consumed and the Receiver's registers are written. -/
theorem read_silent (s : State) (r : RxRegs LID) : Silent s { s.consumeSymbol with rx := r } :=
  (consumeSymbol_silent s).trans (.of_recorded rfl)

theorem finishFrame_silent (s : State) (b : Byte) : Silent s (s.finishFrame b) :=
  (consumeSymbol_silent s).trans ((raise_silent _ _).trans (.of_recorded rfl))

theorem rxClose_silent (s : State) (r : RxStopReason) : Silent s (s.rxClose r) :=
  (consumeSymbol_silent s).trans ((raise_silent _ _).trans (.of_recorded rfl))

theorem supply_silent (s : State) (bs : List Byte) : Silent s (s.supply bs) := .of_recorded (by simp [State.recorded])

theorem completeDisconnect_silent (s : State) : Silent s s.completeDisconnect :=
  .of_recorded (by simp [State.recorded])

/-! ### The shared steps -/

theorem hold_silent (e : hold s = .next t) : Silent s t := hold_cases e ▸ .refl s

/-- A host command keeps the frame if its effect at an idle port does. -/
theorem issue_silent {h : Nat} {k : State → State} (hk : Silent s (k s)) (e : issue h s k = .next t) : Silent s t := by
  rcases issue_cases e with rfl | ⟨-, rfl⟩
  · exact .refl t
  · exact hk

theorem reservedCommand_silent {h : Nat} {op : BitVec 4} (e : reservedCommand h op s = .next t) : Silent s t :=
  issue_silent (refuse_silent s h op _) e

theorem sizeQuery_silent {h : Nat} (e : sizeQuery h s = .next t) : Silent s t := issue_silent (respond_silent s h _) e

theorem fullQuery_silent {h : Nat} (e : fullQuery h s = .next t) : Silent s t := issue_silent (respond_silent s h _) e

theorem takeStep_silent (e : takeStep s = .next t) : Silent s t := by
  rcases takeStep_cases e with rfl | ⟨m, rest, -, -, -, rfl⟩
  · exact .refl t
  · exact .of_recorded rfl

theorem ackInsertStep_silent (e : ackInsertStep s = .next t) : Silent s t := by
  rcases ackInsertStep_cases e with rfl | ⟨-, -, -, rfl⟩
  · exact .refl t
  · exact .of_recorded rfl

theorem ackAbortStep_silent (e : ackAbortStep s = .next t) : Silent s t := by
  rcases ackAbortStep_cases e with rfl | ⟨-, -, -, -, rfl⟩
  · exact .refl t
  · exact (raise_silent s _).trans (.of_recorded rfl)

theorem cs2Step_silent (e : cs2Step s = .next t) : Silent s t := by
  rcases cs2Step_cases e with rfl | ⟨b, -, -, rfl⟩
  · exact .refl t
  · exact finishFrame_silent s b

/-! ### The host commands with an effect of their own (46_host_ops R168 to R178, 45_dispatch R158) -/

theorem execConnect_silent {h : Nat} (e : execConnect h s = .next t) : Silent s t := by
  refine issue_silent ?_ e
  split
  · exact .trans (t := s.connect) (.of_recorded rfl) (respond_silent _ h _)
  · exact refuse_silent s h _ _

theorem execDisconnect_silent {h : Nat} (e : execDisconnect h s = .next t) : Silent s t := by
  refine issue_silent ?_ e
  split
  · exact .trans (t := s.startClosing) (.of_recorded rfl) (setCmd_silent _ h _)
  · exact respond_silent s h _
  · exact setCmd_silent s h _

theorem execSend_silent {h : Nat} {m : Message} (e : execSend h m s = .next t) : Silent s t :=
  issue_silent (sendIssue_silent s h _ m _) e

theorem execSendTimed_silent {h : Nat} {m : Message} {tMs : Nat} (e : execSendTimed h m tMs s = .next t) : Silent s t :=
  issue_silent (sendChecks_silent ((setHost_silent s h _).trans (insertOrHold_silent _ h m _))) e

theorem execSubscribe_silent {h : Nat} {lid : LID} (e : execSubscribe h lid s = .next t) : Silent s t := by
  refine issue_silent ?_ e
  split
  · exact refuse_silent s h _ _
  · split
    · exact respond_silent s h _
    · exact refuse_silent s h _ _
    · next reg _ => exact .trans (t := { s with reg := reg }) (.of_recorded rfl) (respond_silent _ h _)

theorem execUnsubscribe_silent {h : Nat} {lid : LID} (e : execUnsubscribe h lid s = .next t) : Silent s t :=
  issue_silent (.trans (t := { s with reg := unsubscribeFrom s.reg lid }) (.of_recorded rfl) (respond_silent _ h _)) e

theorem execSetClock_silent {h year month day hour minute dow : Nat}
    (e : execSetClock h year month day hour minute dow s = .next t) : Silent s t := by
  refine issue_silent ?_ e
  split
  · exact sendIssue_silent s h _ _ _
  · split
    · exact refuse_silent s h _ _
    · exact .trans (t := s.drawn) (.of_recorded rfl) (refuse_silent _ h _ _)

/-! ### Every instruction -/

/-- Every instruction but T_EMIT keeps the frame and the wire record. -/
theorem exec_silent {i : Instr} (hi : i ≠ .tEmit) (e : exec i s = .next t) : Silent s t := by
  cases i with
  | tEmit => exact absurd rfl hi
  | reserved0 | reservedA | reservedB | reservedC | reservedD | reservedE | reservedF => exact reservedCommand_silent e
  | connect => exact execConnect_silent e
  | disconnect => exact execDisconnect_silent e
  | send => exact execSend_silent e
  | sendTimed => exact execSendTimed_silent e
  | subscribe => exact execSubscribe_silent e
  | unsubscribe => exact execUnsubscribe_silent e
  | setClock => exact execSetClock_silent e
  | querySize | size => exact sizeQuery_silent e
  | queryFull | isFull => exact fullQuery_silent e
  | append h m =>
    rcases execAppend_cases e with rfl | ⟨c, -, -, -, -, rfl⟩
    · exact .refl t
    · exact insertAndRespond_silent s h m
  | appendTimed h m =>
    rcases execAppendTimed_cases e with rfl | ⟨-, -, ⟨-, rfl⟩ | ⟨-, -, rfl⟩⟩
    · exact .refl t
    · exact insertAndRespond_silent s h m
    · exact (respond_silent s h _).trans (raise_silent _ _)
  | prepend =>
    rcases execPrepend_cases e with rfl | ⟨-, e⟩
    · exact .refl t
    · exact ackInsertStep_silent e
  | take | tTake => exact takeStep_silent e
  | flag | escape | esc7E | esc7D | escIllegal | frame =>
    cases e
    exact supply_silent s _
  | ackreq =>
    rcases execAckreq_cases e with rfl | e | e
    · exact .refl t
    · exact ackInsertStep_silent e
    · exact ackAbortStep_silent e
  | typeBareAck =>
    rcases execTypeBareAck_cases e with rfl | ⟨-, e⟩
    · exact .refl t
    · exact takeStep_silent e
  | typeExempt =>
    rcases execTypeExempt_cases e with rfl | ⟨-, e⟩
    · exact .refl t
    · exact cs2Step_silent e
  | notify =>
    rcases execNotify_cases e with rfl | ⟨n, -, -, -, rfl⟩
    · exact .refl t
    · exact ⟨⟨rfl, rfl, rfl, rfl, List.prefix_rfl, List.prefix_append ..⟩, rfl⟩
  | tReady =>
    rcases execTReady_cases e with rfl | ⟨-, -, -, rfl⟩
    · exact .refl t
    · exact .of_recorded rfl
  | tTimeout =>
    rcases execTTimeout_cases e with rfl | ⟨-, -, -, -, rfl⟩
    · exact .refl t
    · exact (raise_silent s _).trans (.of_recorded rfl)
  | tCancel =>
    rcases execTCancel_cases e with rfl | ⟨-, -, rfl⟩
    · exact .refl t
    · exact txStop_silent s _
  | tWrerr =>
    rcases execTWrerr_cases e with rfl | ⟨-, -, -, rfl⟩ | ⟨answers, -, -, -, -, rfl⟩
    · exact .refl t
    · exact txStop_silent s _
    · exact .trans (t := { s with sinkAns := answers }) (.of_recorded rfl) (txStop_silent _ _)
  | tEnd =>
    rcases execTEnd_cases e with rfl | ⟨-, -, rfl⟩
    · exact .refl t
    · exact .of_recorded rfl
  | rHuntSkip =>
    rcases execRHuntSkip_cases e with rfl | ⟨b, -, -, -, rfl⟩
    · exact .refl t
    · exact consumeSymbol_silent s
  | rHuntFlag =>
    rcases execRHuntFlag_cases e with rfl | ⟨-, -, rfl⟩
    · exact .refl t
    · exact read_silent s _
  | rLen =>
    rcases execRLen_cases e with rfl | ⟨b, -, -, rfl⟩
    · exact .refl t
    · exact read_silent s _
  | rDataPlain =>
    rcases execRDataPlain_cases e with rfl | ⟨b, -, -, -, -, rfl⟩
    · exact .refl t
    · exact read_silent s _
  | rDataEsc =>
    rcases execRDataEsc_cases e with rfl | ⟨-, -, -, rfl⟩
    · exact .refl t
    · exact read_silent s _
  | rEscOk =>
    rcases execREscOk_cases e with rfl | ⟨b, -, -, -, -, rfl⟩
    · exact .refl t
    · exact read_silent s _
  | rEscBad =>
    rcases execREscBad_cases e with rfl | ⟨b, -, -, -, -, rfl⟩
    · exact .refl t
    · exact read_silent s _
  | rCs1 =>
    rcases execRCs1_cases e with rfl | ⟨b, -, -, rfl⟩
    · exact .refl t
    · exact read_silent s _
  | rCs2 => exact cs2Step_silent e
  | rAckInsert => exact ackInsertStep_silent e
  | rAckHold => exact hold_silent e
  | rAckAbort => exact ackAbortStep_silent e
  | rAckNone =>
    rcases execRAckNone_cases e with rfl | ⟨-, -, rfl⟩
    · exact .refl t
    · exact .of_recorded rfl
  | rGate =>
    rcases execRGate_cases e with rfl | ⟨-, ⟨-, -, rfl⟩ | ⟨-, rfl⟩⟩
    · exact .refl t
    · exact .of_recorded rfl
    · exact .of_recorded rfl
  | rDeliverOk =>
    rcases execRDeliverOk_cases e with rfl | ⟨n, -, -, rfl⟩
    · exact .refl t
    · exact .of_recorded rfl
  | rDeliverFault =>
    rcases execRDeliverFault_cases e with rfl | ⟨n, -, -, rfl⟩
    · exact .refl t
    · exact (raise_silent s _).trans (.of_recorded rfl)
  | rClose =>
    rcases execRClose_cases e with rfl | ⟨r, -, rfl, -⟩
    · exact .refl t
    · exact rxClose_silent s r
  | disconnectComplete =>
    rcases execDisconnectComplete_cases e with rfl | ⟨-, -, -, rfl⟩
    · exact .refl t
    · exact completeDisconnect_silent s
  | insertRelease h =>
    rcases execInsertRelease_cases e with rfl | ⟨c, -, -, -, rfl⟩
    · exact .refl t
    · exact (respond_silent s h _).trans (raise_silent _ _)

/-- T_EMIT keeps the frame, and moves at most the head byte of the frame to the end of the wire record (43_transmitter
R127). -/
theorem execTEmit_appends (e : execTEmit s = .next t) :
    Framed s t ∧ (t.wireOut = s.wireOut ∨ ∃ b, s.tx.frame = b :: t.tx.frame ∧ t.wireOut = s.wireOut ++ [b]) := by
  rcases execTEmit_cases e with rfl | ⟨b, rest, answers, -, hframe, -, -, rfl⟩
  · exact ⟨(Silent.refl t).toFramed, .inl rfl⟩
  · exact ⟨⟨rfl, rfl, rfl, rfl, List.prefix_rfl, List.prefix_rfl⟩, .inr ⟨b, hframe, rfl⟩⟩

/-- Settles O16: T_EMIT by its own lemma, every other instruction because it is silent. -/
theorem instructionsOnlyAppend : Obligations.InstructionsOnlyAppend := by
  intro i s t e
  by_cases hi : i = .tEmit
  · subst hi
    obtain ⟨⟨hnow, hcfg, hsched, hports, hev, hnotes⟩, hwire⟩ := execTEmit_appends e
    exact ⟨hnow, hcfg, hsched, hports, hev, hnotes, hwire.imp_right fun hb => ⟨rfl, hb⟩⟩
  · obtain ⟨⟨hnow, hcfg, hsched, hports, hev, hnotes⟩, hwire⟩ := exec_silent hi e
    exact ⟨hnow, hcfg, hsched, hports, hev, hnotes, .inl hwire⟩

end Sys2Proof.Machine
end

section
/-! Settles O59 (20_memory R47). The operations write or drop an entry at an end of the queue; what each does to the slots is
stated by entry numbers, counted from the head modulo `P_QCAP`, so that the index arithmetic is done once. -/

namespace Sys2Proof.Machine

variable {r u : Ring} {m x : Message} {i j k : Nat}

/-! ### The slots by entry number -/

/-- What the slot of the `i`-th entry holds. -/
def Ring.entry (r : Ring) (i : Nat) : Option Message := r.slots[r.slotOf i]?

theorem Ring.toQueue_eq (r : Ring) : r.toQueue = (List.range r.cnt).filterMap r.entry := rfl

theorem Ring.cap_pos (hwf : r.wf) : 0 < r.cap := Nat.zero_lt_of_lt hwf.1

theorem Ring.slotOf_lt (hwf : r.wf) (i : Nat) : r.slotOf i < r.cap := Nat.mod_lt _ (Ring.cap_pos hwf)

theorem Ring.slotOf_zero (hwf : r.wf) : r.slotOf 0 = r.hd := Nat.mod_eq_of_lt hwf.1

theorem Ring.slotOf_cap_add (r : Ring) (i : Nat) : r.slotOf (r.cap + i) = r.slotOf i := by
  rw [Ring.slotOf, Nat.add_left_comm, Nat.add_mod_left, Ring.slotOf]

/-- Entries less than one turn apart have different slots. -/
theorem Ring.slotOf_ne (hi : i < r.cap) (hj : j < r.cap) (hne : i ≠ j) : r.slotOf i ≠ r.slotOf j :=
  fun h => hne (Nat.ModEq.eq_of_lt_of_lt (Nat.ModEq.add_left_cancel' r.hd h) hi hj)

/-- Where the head is moved to the slot of entry `j`, entry numbers are shifted by `j`. -/
theorem Ring.slotOf_of_hd_eq (hcap : u.cap = r.cap) (hhd : u.hd = r.slotOf j) (i : Nat) :
    u.slotOf i = r.slotOf (j + i) := by
  rw [Ring.slotOf, hcap, hhd, Ring.slotOf, Nat.mod_add_mod, Nat.add_assoc, Ring.slotOf]

/-- The slot before the head is that of the last entry of a full turn. -/
theorem Ring.slot_before_head (hwf : r.wf) : (r.hd + r.cap - 1) % r.cap = r.slotOf (r.cap - 1) := by
  rw [Ring.slotOf, Nat.add_sub_assoc (Ring.cap_pos hwf)]

theorem Ring.entry_isSome (hwf : r.wf) (i : Nat) : (r.entry i).isSome = true := by
  rw [Ring.entry, List.getElem?_eq_getElem (r.slotOf_lt hwf i), Option.isSome_some]

/-- The abstract list has as many entries as the count. -/
theorem Ring.length_toQueue (hwf : r.wf) : r.toQueue.length = r.cnt := by
  have hall : r.toQueue.length = (List.range r.cnt).length :=
    List.filterMap_length_eq_length.mpr fun i _ => Ring.entry_isSome hwf i
  rw [hall, List.length_range]

/-- The entry whose slot was written is the message. -/
theorem Ring.entry_of_set_same (hwf : r.wf) (hslots : u.slots = r.slots.set (r.slotOf j) m)
    (hi : u.slotOf i = r.slotOf j) : u.entry i = some m := by
  rw [Ring.entry, hslots, hi, List.getElem?_set_self (r.slotOf_lt hwf j)]

/-- An entry whose slot was not written is as before, under its earlier number. -/
theorem Ring.entry_of_set_ne (hslots : u.slots = r.slots.set (r.slotOf j) m) (hi : u.slotOf i = r.slotOf k)
    (hne : r.slotOf j ≠ r.slotOf k) : u.entry i = r.entry k := by
  rw [Ring.entry, hslots, hi, List.getElem?_set_ne hne, Ring.entry]

/-! ### The abstract list at its ends -/

/-- One entry more, the earlier ones unchanged, is a tail insert. -/
theorem Ring.toQueue_eq_concat (hcnt : u.cnt = r.cnt + 1) (hold : ∀ i < r.cnt, u.entry i = r.entry i)
    (hnew : u.entry r.cnt = some m) : u.toQueue = r.toQueue ++ [m] := by
  have hfront : (List.range r.cnt).filterMap u.entry = r.toQueue :=
    List.filterMap_congr fun i hi => hold i (List.mem_range.mp hi)
  rw [Ring.toQueue_eq, hcnt, List.range_succ, List.filterMap_append, hfront, List.filterMap_cons_some hnew,
    List.filterMap_nil]

/-- One entry more, the earlier ones shifted by one, is a head insert. -/
theorem Ring.toQueue_eq_cons (hcnt : u.cnt = r.cnt + 1) (hold : ∀ i < r.cnt, u.entry (i + 1) = r.entry i)
    (hnew : u.entry 0 = some m) : u.toQueue = m :: r.toQueue := by
  have htail : (List.range r.cnt).filterMap (u.entry ∘ Nat.succ) = r.toQueue :=
    List.filterMap_congr fun i hi => hold i (List.mem_range.mp hi)
  rw [Ring.toQueue_eq, hcnt, List.range_succ_eq_map, List.filterMap_cons_some hnew, List.filterMap_map, htail]

/-! ### When an operation holds, and what it writes otherwise -/

theorem Ring.append_eq_none_iff : r.append m = none ↔ r.cap ≤ r.cnt := by simp [Ring.append]

theorem Ring.append_eq_some (e : r.append m = some u) :
    r.cnt < r.cap ∧ u = { r with slots := r.slots.set (r.slotOf r.cnt) m, cnt := r.cnt + 1 } := by
  simpa [Ring.append, eq_comm] using e

theorem Ring.prepend_eq_none_iff : r.prepend m = none ↔ r.cap ≤ r.cnt := by simp [Ring.prepend]

/-- The slot written is the new head. -/
theorem Ring.prepend_eq_some (hwf : r.wf) (e : r.prepend m = some u) :
    r.cnt < r.cap ∧ u = ⟨r.slots.set (r.slotOf (r.cap - 1)) m, r.slotOf (r.cap - 1), r.cnt + 1⟩ := by
  simpa [Ring.prepend, Ring.slot_before_head hwf, eq_comm] using e

/-- In its ranges the slot at the head is there, so TAKE holds for an empty queue only. -/
theorem Ring.take_eq_none_iff (hwf : r.wf) : r.take = none ↔ r.cnt = 0 := by
  have hhead : r.slots[r.hd]? = some (r.slots[r.hd]'hwf.1) := List.getElem?_eq_getElem hwf.1
  simp [Ring.take, hhead]

theorem Ring.take_eq_some (hwf : r.wf) (e : r.take = some (x, u)) :
    1 ≤ r.cnt ∧ r.entry 0 = some x ∧ u = { r with hd := r.slotOf 1, cnt := r.cnt - 1 } := by
  unfold Ring.take at e
  split at e
  · next hcnt =>
    split at e
    · next y hhead =>
      obtain ⟨rfl, rfl⟩ : y = x ∧ _ = u := by simpa using e
      exact ⟨hcnt, by rw [Ring.entry, Ring.slotOf_zero hwf, hhead], rfl⟩
    · cases e
  · cases e

/-! ### The operations realise those of the list -/

/-- The head stands, and the free slot after the last entry is written. -/
theorem Ring.append_realises (hwf : r.wf) (e : r.append m = some u) :
    u.wf ∧ u.cap = r.cap ∧ u.toQueue = r.toQueue ++ [m] := by
  obtain ⟨hroom, hu⟩ := Ring.append_eq_some e
  have hslots : u.slots = r.slots.set (r.slotOf r.cnt) m := by rw [hu]
  have hhd : u.hd = r.hd := by rw [hu]
  have hcnt : u.cnt = r.cnt + 1 := by rw [hu]
  have hcap : u.cap = r.cap := by rw [Ring.cap, hslots, List.length_set, Ring.cap]
  have hslot (i : Nat) : u.slotOf i = r.slotOf i := by rw [Ring.slotOf, hhd, hcap, Ring.slotOf]
  refine ⟨⟨?hd, ?cnt⟩, hcap, Ring.toQueue_eq_concat hcnt ?old ?new⟩
  case hd => exact hhd.trans_lt (hwf.1.trans_eq hcap.symm)
  case cnt => exact hcnt.trans_le (Nat.succ_le_of_lt (hroom.trans_eq hcap.symm))
  case old => exact fun i hi => Ring.entry_of_set_ne hslots (hslot i) (Ring.slotOf_ne hroom (hi.trans hroom) hi.ne')
  case new => exact Ring.entry_of_set_same hwf hslots (hslot r.cnt)

/-- The slot before the head is written and becomes the head; every earlier entry moves up by one. -/
theorem Ring.prepend_realises (hwf : r.wf) (e : r.prepend m = some u) :
    u.wf ∧ u.cap = r.cap ∧ u.toQueue = m :: r.toQueue := by
  obtain ⟨hroom, hu⟩ := Ring.prepend_eq_some hwf e
  have hslots : u.slots = r.slots.set (r.slotOf (r.cap - 1)) m := by rw [hu]
  have hhd : u.hd = r.slotOf (r.cap - 1) := by rw [hu]
  have hcnt : u.cnt = r.cnt + 1 := by rw [hu]
  have hcap : u.cap = r.cap := by rw [Ring.cap, hslots, List.length_set, Ring.cap]
  have hslot (i : Nat) : u.slotOf (i + 1) = r.slotOf i := by
    have hturn : r.cap - 1 + (i + 1) = r.cap + i := by omega
    rw [Ring.slotOf_of_hd_eq hcap hhd, hturn, Ring.slotOf_cap_add]
  refine ⟨⟨?hd, ?cnt⟩, hcap, Ring.toQueue_eq_cons hcnt ?old ?new⟩
  case hd => exact hhd.trans_lt ((Ring.slotOf_lt hwf _).trans_eq hcap.symm)
  case cnt => exact hcnt.trans_le (Nat.succ_le_of_lt (hroom.trans_eq hcap.symm))
  case old => exact fun i hi => Ring.entry_of_set_ne hslots (hslot i) (Ring.slotOf_ne (by omega) (by omega) (by omega))
  case new => exact Ring.entry_of_set_same hwf hslots (Ring.slotOf_of_hd_eq hcap hhd 0)

/-- The slots stand, and the head moves to the entry after it; the list before is the head with the list after. -/
theorem Ring.take_realises (hwf : r.wf) (e : r.take = some (x, u)) :
    u.wf ∧ u.cap = r.cap ∧ r.toQueue = x :: u.toQueue := by
  obtain ⟨hone, hhead, hu⟩ := Ring.take_eq_some hwf e
  have hslots : u.slots = r.slots := by rw [hu]
  have hhd : u.hd = r.slotOf 1 := by rw [hu]
  have hcnt : r.cnt = u.cnt + 1 := by rw [hu, Nat.sub_add_cancel hone]
  have hcap : u.cap = r.cap := by rw [Ring.cap, hslots, Ring.cap]
  have hentry (i : Nat) : r.entry (i + 1) = u.entry i := by
    rw [Ring.entry, Ring.entry, hslots, Ring.slotOf_of_hd_eq hcap hhd, Nat.add_comm]
  refine ⟨⟨?hd, ?cnt⟩, hcap, Ring.toQueue_eq_cons hcnt (fun i _ => hentry i) hhead⟩
  case hd => exact hhd.trans_lt ((Ring.slotOf_lt hwf 1).trans_eq hcap.symm)
  case cnt =>
    have hle : u.cnt + 1 ≤ r.cap := hcnt.symm.trans_le hwf.2
    exact (Nat.le_of_succ_le hle).trans_eq hcap.symm

/-- Settles O59: one lemma per operation, and the count, which is the list's length, says where each holds. -/
theorem ringRealisesQueue : Obligations.RingRealisesQueue := by
  intro r m hwf
  have hlen : r.toQueue.length = r.cnt := Ring.length_toQueue hwf
  refine ⟨hlen, ?append, ?prepend, ?take⟩
  case append =>
    split
    · next u e =>
      obtain ⟨hroom, -⟩ := Ring.append_eq_some e
      exact ⟨hlen.trans_lt hroom, Ring.append_realises hwf e⟩
    · next e => exact hlen.trans (hwf.2.antisymm (Ring.append_eq_none_iff.mp e))
  case prepend =>
    split
    · next u e =>
      obtain ⟨hroom, -⟩ := Ring.prepend_eq_some hwf e
      exact ⟨hlen.trans_lt hroom, Ring.prepend_realises hwf e⟩
    · next e => exact hlen.trans (hwf.2.antisymm (Ring.prepend_eq_none_iff.mp e))
  case take =>
    split
    · next x u e => exact Ring.take_realises hwf e
    · next e => exact List.eq_nil_of_length_eq_zero (hlen.trans ((Ring.take_eq_none_iff hwf).mp e))

end Sys2Proof.Machine
end

section
/-! Settles O8, O9 and O10 (30_encoding R61, R66, R73 to R76, R80, R83). A row whose operands nothing checks is decoded by
computing; the lemmas are about the four checks of `Instr.wf`, the fields of a type byte, and the codes that are never
issued. -/

namespace Sys2Proof.Machine

/-! ### The data of a frame as it stands on the wire -/

theorem readData_pair (n : Nat) (x : Byte) (w : List Byte) :
    readData (n + 1) (0x7D :: x :: w) =
      (readData n w).map fun r => ((unstuff2 x).1 :: r.1, !(unstuff2 x).2 || r.2.1, r.2.2) := rfl

theorem readData_plain (n : Nat) {b : Byte} (hb : b ≠ 0x7D) (w : List Byte) :
    readData (n + 1) (b :: w) = (readData n w).map fun r => (b :: r.1, r.2.1, r.2.2) := by
  simp only [readData, if_neg hb]

/-- What follows the data on the wire is left as the rest, whatever it is. -/
theorem readData_append {n : Nat} {w r : List Byte} {m : Message} {serr : Bool} (e : readData n w = some (m, serr, r))
    (v : List Byte) : readData n (w ++ v) = some (m, serr, r ++ v) := by
  induction n, w using readData.induct generalizing m serr r with
  | case1 w =>
    obtain ⟨rfl, rfl, rfl⟩ : [] = m ∧ false = serr ∧ w = r := by simpa [readData] using e
    simp [readData]
  | case2 n => simp [readData] at e
  | case3 n => simp [readData] at e
  | case4 n x u ih =>
    rw [readData_pair] at e
    obtain ⟨⟨m', serr', r'⟩, hread, hm⟩ := Option.map_eq_some_iff.mp e
    cases hm
    rw [List.cons_append, List.cons_append, readData_pair, ih hread, Option.map_some]
  | case5 n b t hb ih =>
    rw [readData_plain n hb] at e
    obtain ⟨⟨m', serr', r'⟩, hread, hm⟩ := Option.map_eq_some_iff.mp e
    cases hm
    rw [List.cons_append, readData_plain n hb, ih hread, Option.map_some]

/-- Wire bytes that are exactly `n` logical bytes are split off what follows them as they stand (30_encoding R63, R84). -/
theorem splitData_append {n : Nat} {data : List Byte} (e : splitData n data = some (data, [])) (v : List Byte) :
    splitData n (data ++ v) = some (data, v) := by
  obtain ⟨m, serr, hread⟩ : ∃ m serr, readData n data = some (m, serr, []) := by
    obtain ⟨⟨m, serr, r⟩, hread, hr⟩ := Option.map_eq_some_iff.mp e
    obtain ⟨-, rfl⟩ := Prod.mk.inj hr
    exact ⟨m, serr, hread⟩
  simp [splitData, readData_append hread v]

/-! ### The fields of a type byte (30_encoding R66) -/

theorem getLsbD_seven_typeByte (a r : Bool) (y : BitVec 6) : (typeByte a r y).getLsbD 7 = a := ackBit_typeByte a r y

theorem getLsbD_six_typeByte (a r : Bool) (y : BitVec 6) : (typeByte a r y).getLsbD 6 = r := by
  revert a r y; decide

theorem extractLsb'_typeByte (a r : Bool) (y : BitVec 6) : (typeByte a r y).extractLsb' 0 6 = y := by
  revert a r y; decide

end Sys2Proof.Machine

namespace Sys2Proof

open Machine

/-! ### Decoding an encoded row -/

theorem decodeChecked_of_wf {i : Instr} (hwf : WellFormed i) : decodeChecked i = .ok i := if_pos hwf

theorem decode_encode_escIllegal {x : Byte} (hwf : WellFormed (.escIllegal x)) :
    decode (encode (.escIllegal x)) = .ok (.escIllegal x) := by
  obtain ⟨h7E, h7D⟩ : x ≠ 0x5E ∧ x ≠ 0x5D := of_decide_eq_true hwf
  show decodeWire2 _ 0x7D x = _
  rw [decodeWire2, if_neg (not_not.mpr rfl), if_neg h7E, if_neg h7D]
  rfl

theorem decode_encode_frame {len c1 c2 : Byte} {data : List Byte} (hwf : WellFormed (.frame len data c1 c2)) :
    decode (encode (.frame len data c1 c2)) = .ok (.frame len data c1 c2) := by
  have hsplit : splitData len.toNat (data ++ [c1, c2]) = some (data, [c1, c2]) :=
    splitData_append (of_decide_eq_true hwf) _
  show decodeFramePacket _ (0x7E :: len :: (data ++ [c1, c2])) = _
  rw [decodeFramePacket, if_neg (not_not.mpr rfl), hsplit]
  rfl

theorem decode_encode_ackreq (r : Bool) (y : BitVec 6) : decode (encode (.ackreq r y)) = .ok (.ackreq r y) := by
  show (if _ then Decoded.ok (.ackreq _ _) else _) = _
  rw [if_pos (getLsbD_seven_typeByte true r y), getLsbD_six_typeByte, extractLsb'_typeByte]

theorem decode_encode_typeBareAck (a r : Bool) : decode (encode (.typeBareAck a r)) = .ok (.typeBareAck a r) := by
  show (if _ then Decoded.ok (.typeBareAck _ _) else _) = _
  rw [if_pos (extractLsb'_typeByte a r bareAckType), getLsbD_seven_typeByte, getLsbD_six_typeByte]

theorem decode_encode_typeExempt (a r : Bool) : decode (encode (.typeExempt a r)) = .ok (.typeExempt a r) := by
  show (if _ then Decoded.ok (.typeExempt _ _) else _) = _
  rw [if_pos (extractLsb'_typeByte a r exemptType), getLsbD_seven_typeByte, getLsbD_six_typeByte]

/-- Settles O8: the rows with a check on an operand or a field in a type byte have a lemma each; the code bytes and operands
of every other row are read back by computing. -/
theorem decodeEncodeAgree : Obligations.DecodeEncodeAgree := by
  intro i hwf
  cases i with
  | append | appendTimed | prepend => exact decodeChecked_of_wf hwf
  | escIllegal => exact decode_encode_escIllegal hwf
  | frame => exact decode_encode_frame hwf
  | ackreq r y => exact decode_encode_ackreq r y
  | typeBareAck a r => exact decode_encode_typeBareAck a r
  | typeExempt a r => exact decode_encode_typeExempt a r
  | notify lid ans => cases ans <;> rfl
  | insertRelease h op => cases op <;> rfl
  | reserved0 | connect | disconnect | send | sendTimed | subscribe | unsubscribe | setClock | querySize | queryFull
  | reservedA | reservedB | reservedC | reservedD | reservedE | reservedF => rfl
  | take | size | isFull => rfl
  | flag | escape | esc7E | esc7D => rfl
  | tReady | tTimeout | tCancel | tTake | tEmit | tWrerr | tEnd => rfl
  | rHuntSkip | rHuntFlag | rLen | rDataPlain | rDataEsc | rEscOk | rEscBad | rCs1 | rCs2 | rAckInsert | rAckHold
  | rAckAbort | rAckNone | rGate | rDeliverOk | rDeliverFault | rClose => rfl
  | disconnectComplete => rfl

/-- A packet that the encoder writes for a well-formed instruction decodes to it. -/
theorem decode_of_encode {i : Instr} {p : Packet} (he : encode i = p) (hwf : WellFormed i) : decode p = .ok i :=
  he ▸ decodeEncodeAgree i hwf

/-- Settles O9: each of the words is the one the encoder writes for its instruction. -/
theorem decodesSpecWords : Obligations.DecodesSpecWords := by
  refine ⟨?send, ?reservedA, ?take, ?flag, ?escIllegal, ?frame, ?ackreq, ?tEnd, ?rCs2, ?insertRelease⟩
  case frame => exact decode_of_encode rfl (by decide)
  case escIllegal => exact decode_of_encode rfl (by decide)
  all_goals exact decode_of_encode rfl rfl

/-! ### The codes that are never issued -/

theorem decodeQueue_unissued (p : Packet) {c : Nat} (hc : 6 ≤ c) : decodeQueue p c = .reject (.queueCode c) := by
  obtain ⟨k, rfl⟩ := Nat.exists_eq_add_of_le' hc
  rfl

theorem decodeTx_unissued (p : Packet) {c : Nat} (hc : 5 ≤ c) : decodeTx p c = .reject (.stateCode c) := by
  obtain ⟨k, rfl⟩ := Nat.exists_eq_add_of_le' hc
  have hk : ¬ k + 5 ≤ 3 := by omega
  exact (if_neg hk : (if k + 5 ≤ 3 then Decoded.reject .operands else _) = _)

theorem decodeRx_unissued (p : Packet) {c : Nat} (hc : 10 ≤ c) : decodeRx p c = .reject (.stateCode c) := by
  obtain ⟨k, rfl⟩ := Nat.exists_eq_add_of_le' hc
  have hk : ¬ k + 10 ≤ 8 := by omega
  exact (if_neg hk : (if k + 10 ≤ 8 then Decoded.reject .operands else _) = _)

theorem step_reject {s : State} {split : Bool} {p : Packet} {r : Reject} (hf : s.fetch = .act split p)
    (hd : decode p = .reject r) : step s = rejectPacket r := by simp only [step, hf, hd]

/-- Settles O10: the decoder rejects such a code by name, and the step makes that the fault. -/
theorem unissuedCodesFault : Obligations.UnissuedCodesFault := by
  intro s split p b hf hcode
  refine ⟨?queue, ?tx, ?rx⟩
  case queue =>
    intro hfmt hc
    have hd : decode p = decodeQueue p (b.toNat % 8) := by simp only [decode, hfmt, hcode]; rfl
    exact step_reject hf (hd.trans (decodeQueue_unissued p hc))
  case tx =>
    intro hfmt hc
    have hd : decode p = decodeTx p (b.toNat % 8) := by simp only [decode, hfmt, hcode]; rfl
    exact step_reject hf (hd.trans (decodeTx_unissued p hc))
  case rx =>
    intro hfmt hc
    have hd : decode p = decodeRx p (b.toNat % 16) := by simp only [decode, hfmt, hcode]; rfl
    exact step_reject hf (hd.trans (decodeRx_unissued p hc))

end Sys2Proof
end

section
/-! Settles O5 (30_encoding R65). Stuffing makes two bytes of each `7E` and `7D` and one of every other. -/

namespace Sys2Proof.Machine

/-- The bytes that stuffing escapes (30_encoding R73). -/
abbrev escaped (b : Byte) : Bool := decide (b = 0x7E ∨ b = 0x7D)

theorem stuff_eq_singleton {b : Byte} (hb : escaped b = false) : stuff b = [b] := by
  obtain ⟨h7E, h7D⟩ := not_or.mp (of_decide_eq_false hb)
  rw [stuff, if_neg h7E, if_neg h7D]

theorem length_stuff_of_escaped {b : Byte} (hb : escaped b = true) : (stuff b).length = 2 := by
  obtain rfl | rfl : b = 0x7E ∨ b = 0x7D := of_decide_eq_true hb <;> rfl

theorem length_stuffSeq (m : Message) : (stuffSeq m).length = m.length + m.countP escaped := by
  induction m with
  | nil => rfl
  | cons b t ih =>
    rw [stuffSeq, List.length_append, ih, List.length_cons]
    cases hb : escaped b with
    | true => rw [length_stuff_of_escaped hb, List.countP_cons_of_pos hb]; omega
    | false => rw [stuff_eq_singleton hb, List.length_singleton, List.countP_cons_of_neg (by simp [hb])]; omega

/-- The flag, the length byte and two checksum bytes around the stuffed bytes (40_codec R94). -/
theorem length_encodeFrame (m : Message) : (encodeFrame m).length = 4 + (stuffSeq m).length := by
  simp only [encodeFrame, List.length_cons, List.length_append, List.length_nil]
  omega

theorem length_stuffSeq_le (m : Message) : (stuffSeq m).length ≤ 2 * m.length := by
  have hcount : m.countP escaped ≤ m.length := List.countP_le_length
  have hlen := length_stuffSeq m
  omega

theorem length_stuffSeq_replicate (n : Nat) {b : Byte} (hb : escaped b = true) :
    (stuffSeq (List.replicate n b)).length = 2 * n := by
  rw [length_stuffSeq, List.countP_replicate, if_pos hb, List.length_replicate, Nat.two_mul]

/-- Settles O5: the frame is 4 bytes longer than its stuffed bytes, whose number is between 0 and twice the message's. -/
theorem frameWireLength : Obligations.FrameWireLength := by
  intro m hm
  have hframe := length_encodeFrame m
  have hstuffed := length_stuffSeq_le m
  refine ⟨?count, hframe, ?least, ?most, rfl, ?reached⟩
  case count => rw [hframe, length_stuffSeq, Nat.add_assoc]
  case least => omega
  case most => omega
  case reached => rw [length_encodeFrame, length_stuffSeq_replicate 255 rfl]

end Sys2Proof.Machine
end

section
/-! Settles O57 and O58 (30_encoding R61, R73, R74; 44_receiver R141 to R143). A wire row supplies its bytes; the Receiver
reads an escape pair in two steps, of which only the second depends on the code. -/

namespace Sys2Proof.Machine

variable {s : State}

/-! ### The wire rows -/

theorem State.supply_eq (s : State) (bs : List Byte) :
    s.supply bs = { s with wireIn := if s.streamOpen then s.wireIn ++ bs.map .byte else s.wireIn } :=
  State.offerSymbols_eq s _

theorem supply_next_closed (hclosed : s.streamOpen = false) (bs : List Byte) :
    (.next (s.supply bs) : Result) = .next s := by rw [State.supply_closed s bs hclosed]

/-- Settles O57: each row is the supply of its bytes, which is its equation while the stream is open and holds while it is
closed. -/
theorem wireCodesSupplied : Obligations.WireCodesSupplied := by
  intro s x len c1 c2 data supplied
  have hsupplied (bs : List Byte) : (.next (s.supply bs) : Result) = supplied bs := by rw [State.supply_eq]
  refine ⟨hsupplied _, hsupplied _, hsupplied _, hsupplied _, hsupplied _, hsupplied _, ?closed⟩
  intro hclosed i hi
  simp only [List.mem_cons, List.not_mem_nil, or_false] at hi
  obtain rfl | rfl | rfl | rfl | rfl | rfl := hi
  all_goals exact supply_next_closed hclosed _

/-! ### The Receiver's steps on an escape pair -/

theorem exec_rDataEsc_escape (hst : s.rx.st = .data) (hesc : s.rx.esc = false) (hb : s.recvByte = some 0x7D) :
    exec .rDataEsc s = .next { s.consumeSymbol with rx := { s.rx with esc := true } } := by
  simp only [exec, execRDataEsc, hst, hesc, hb, if_pos]

theorem exec_rEscOk_legal {b : Byte} (hst : s.rx.st = .data) (hesc : s.rx.esc = true) (hb : s.recvByte = some b)
    (hok : (unstuff2 b).2 = true) :
    exec .rEscOk s =
      .next { s.consumeSymbol with rx := RxRegs.accept { s.rx with esc := false } (unstuff2 b).1 } := by
  simp only [exec, execREscOk, hst, hesc, hb, hok, if_pos]

theorem exec_rEscBad_illegal {b : Byte} (hst : s.rx.st = .data) (hesc : s.rx.esc = true) (hb : s.recvByte = some b)
    (hbad : (unstuff2 b).2 = false) :
    exec .rEscBad s =
      .next { s.consumeSymbol with rx := RxRegs.accept { s.rx with esc := false, serr := true } (unstuff2 b).1 } := by
  simp [exec, execREscBad, hst, hesc, hb, hbad]

theorem unstuff2_illegal {x : Byte} (h7E : x ≠ 0x5E) (h7D : x ≠ 0x5D) : unstuff2 x = (x ^^^ 0x20, false) := by
  rw [unstuff2, if_neg h7E, if_neg h7D]

theorem runAll_cons {i : Instr} {t : State} (e : exec i s = .next t) (rest : List Instr) :
    runAll (i :: rest) s = runAll rest t := by simp only [runAll, e]

/-- The state with the escape byte read and the code `x` of the pair offered. -/
def State.escapeRead (s : State) (x : Byte) : State := { s with wireIn := [.byte x], rx := { s.rx with esc := true } }

theorem State.escapeRead_recvByte (hopen : s.streamOpen = true) (x : Byte) : (s.escapeRead x).recvByte = some x :=
  recvByte_cons (rest := []) hopen rfl

/-- The pair is supplied and its escape byte read; the step `j` is left to read the code. -/
theorem runAll_escape {i : Instr} {x : Byte} (hi : exec i s = .next (s.supply [0x7D, x])) (hst : s.rx.st = .data)
    (hesc : s.rx.esc = false) (hopen : s.streamOpen = true) (hnone : s.wireIn = []) (j : Instr) :
    runAll [i, .rDataEsc, j] s = runAll [j] (s.escapeRead x) := by
  have hwire : (s.supply [0x7D, x]).wireIn = [.byte 0x7D, .byte x] := by simp [hopen, hnone]
  have hread : exec .rDataEsc (s.supply [0x7D, x]) = .next (s.escapeRead x) := by
    refine (exec_rDataEsc_escape (by simpa using hst) (by simpa using hesc) (recvByte_cons (by simpa) hwire)).trans ?_
    simp [State.escapeRead, State.consumeSymbol, State.supply_open s _ hopen, hopen, hnone]
  rw [runAll_cons hi, runAll_cons hread]

/-- Settles O58: after the escape byte the code is read as the logical byte `unstuff2` gives, and marks the frame where it
is illegal. -/
theorem escapePairsDecode : Obligations.EscapePairsDecode := by
  intro s x hst hesc hopen hnone final
  have hrun {i : Instr} {c : Byte} (hi : exec i s = .next (s.supply [0x7D, c])) :=
    runAll_escape hi hst hesc hopen hnone
  have hcode := State.escapeRead_recvByte hopen
  have hlegal {i : Instr} {c : Byte} (hi : exec i s = .next (s.supply [0x7D, c])) (hok : (unstuff2 c).2 = true) :
      final i .rEscOk (unstuff2 c).1 s.rx.serr := by
    have hread := exec_rEscOk_legal (s := s.escapeRead c) hst rfl (hcode c) hok
    refine ⟨_, (hrun hi _).trans (runAll_cons hread []), ?_⟩
    simp [RxRegs.accept, State.escapeRead, hopen]
  refine ⟨hlegal (c := 0x5E) rfl rfl, hlegal (c := 0x5D) rfl rfl, ?illegal⟩
  intro h7E h7D
  have hx := unstuff2_illegal h7E h7D
  have hread := exec_rEscBad_illegal (s := s.escapeRead x) hst rfl (hcode x) (by rw [hx])
  refine ⟨_, (hrun rfl _).trans (runAll_cons hread []), ?_⟩
  simp [RxRegs.accept, State.escapeRead, hopen, hx]

end Sys2Proof.Machine
end

section
/-! Settles O51 and O56 (30_encoding R67, R80, R81; 45_dispatch R165). Each row of a shared step is that step under a
condition on the type byte, so a clause is the equation of the shared step and the condition. -/

namespace Sys2Proof.Machine

variable {s : State} {m : Message} {rest : List Message} {a r : Bool} {y : BitVec 6} {b : Byte} {u : Message}

/-! ### What the condition of a type row says -/

theorem State.nextTypeIs_cons (hq : s.q = (b :: u) :: rest) : s.nextTypeIs b = true := by simp [State.nextTypeIs, hq]

theorem State.nextTypeIs_nil (hq : s.q = []) (b : Byte) : s.nextTypeIs b = false := by simp only [State.nextTypeIs, hq]

theorem RxRegs.typeIs_cons (hbuf : s.rx.buf = b :: u) : s.rx.typeIs b = true := by simp [RxRegs.typeIs, hbuf]

/-- A type byte with bit 7 set asks for an acknowledgment (44_receiver R147). -/
theorem ackreq_of_typeByte (hbuf : s.rx.buf = typeByte true r y :: u) (hlen : 1 ≤ s.rx.len.toNat) :
    s.rx.ackreq = true := by
  simp [RxRegs.ackreq, hbuf, hlen, ackBit_typeByte]

theorem isBareAck_typeByte (a r : Bool) (u : Message) : isBareAck (typeByte a r bareAckType :: u) = true := by
  rw [isBareAck, typeCode_typeByte]; rfl

theorem exempt_typeByte (a r : Bool) (u : Message) : exempt (typeByte a r exemptType :: u) = true := by
  rw [exempt, typeCode_typeByte]; rfl

/-- An exempt frame is valid whatever its checksum, unless a pair was malformed (44_receiver R146). -/
theorem validity_of_exempt (he : exempt s.rx.buf = true) (b : Byte) : s.rx.validity b = !s.rx.serr := by
  rw [RxRegs.validity, he, Bool.or_true, Bool.and_true]

/-! ### The shared steps where they are enabled, and where they hold -/

theorem takeStep_nil (hq : s.q = []) : takeStep s = .next s := by
  unfold takeStep
  split
  · next hcons => cases hq.symm.trans hcons
  · rfl

theorem ackInsertStep_ack (hst : s.rx.st = .ack) (hreq : s.rx.ackreq = true) (hspace : s.hasSpace = true) :
    ackInsertStep s = .next s.insertAck := if_pos ⟨hst, hreq, hspace⟩

theorem ackInsertStep_no_space (hspace : s.hasSpace = false) : ackInsertStep s = .next s :=
  if_neg fun ⟨_, _, h⟩ => Bool.false_ne_true (hspace.symm.trans h)

theorem ackAbortStep_ack (hst : s.rx.st = .ack) (hreq : s.rx.ackreq = true) (hfull : s.statQfull = true)
    (hcancel : s.cancel = true) : ackAbortStep s = .next s.abortAck := if_pos ⟨hst, hreq, hfull, hcancel⟩

theorem ackAbortStep_not_cancelled (hcancel : s.cancel = false) : ackAbortStep s = .next s :=
  if_neg fun ⟨_, _, _, h⟩ => Bool.false_ne_true (hcancel.symm.trans h)

theorem cs2Step_byte (hst : s.rx.st = .cs2) (hb : s.recvByte = some b) : cs2Step s = .next (s.finishFrame b) := by
  simp only [cs2Step, hst, hb]

theorem hasSpace_of_full (hfull : s.q.length = s.cfg.qcap) : s.hasSpace = false := by simp [State.hasSpace, hfull]

/-! ### The rows that name a shared step -/

theorem exec_typeBareAck_take (hq : s.q = (typeByte a r bareAckType :: u) :: rest) :
    exec (.typeBareAck a r) s = takeStep s := if_pos (State.nextTypeIs_cons hq)

theorem exec_typeBareAck_nil (hq : s.q = []) (a r : Bool) : exec (.typeBareAck a r) s = .next s :=
  if_neg (by simp [State.nextTypeIs_nil hq])

theorem exec_prepend_ackMessage (s : State) : exec (.prepend [0x1D]) s = ackInsertStep s :=
  (if_pos rfl : execPrepend ackMessage s = ackInsertStep s)

theorem exec_ackreq_insert (hbuf : s.rx.buf = typeByte true r y :: u) (hspace : s.hasSpace = true) :
    exec (.ackreq r y) s = ackInsertStep s := by
  simp only [exec, execAckreq, RxRegs.typeIs_cons hbuf, hspace, if_pos]

theorem exec_ackreq_abort (hbuf : s.rx.buf = typeByte true r y :: u) (hspace : s.hasSpace = false) :
    exec (.ackreq r y) s = ackAbortStep s := by
  simp [exec, execAckreq, RxRegs.typeIs_cons hbuf, hspace]

theorem exec_typeExempt_cs2 (hbuf : s.rx.buf = typeByte a r exemptType :: u) :
    exec (.typeExempt a r) s = cs2Step s := if_pos (RxRegs.typeIs_cons hbuf)

/-- Settles O56: the rows are their agent's step, which takes the head, inserts or aborts the acknowledgment, or ends the
frame. -/
theorem rowsOfOneStep : Obligations.RowsOfOneStep := by
  refine ⟨?take, ?empty, ?ack, ?exempt⟩
  case take =>
    intro s m rest hst hcancel hq
    have htake := takeStep_take hst hcancel hq
    refine ⟨_, htake, htake, rfl, rfl, rfl, ?_⟩
    rintro a r u rfl
    exact ⟨(exec_typeBareAck_take hq).trans htake, isBareAck_typeByte a r u⟩
  case empty => exact fun s a r hq => ⟨takeStep_nil hq, exec_typeBareAck_nil hq a r⟩
  case ack =>
    intro s r y u hst hbuf hlen
    have hreq := ackreq_of_typeByte hbuf hlen
    refine ⟨?insert, ?wait, ?abort⟩
    case insert =>
      intro hlt
      have hspace : s.hasSpace = true := decide_eq_true hlt
      have hinsert := ackInsertStep_ack hst hreq hspace
      exact ⟨_, hinsert, (exec_prepend_ackMessage s).trans hinsert, (exec_ackreq_insert hbuf hspace).trans hinsert, rfl,
        rfl⟩
    case wait =>
      intro hfull hcancel
      have hspace := hasSpace_of_full hfull
      exact ⟨(exec_prepend_ackMessage s).trans (ackInsertStep_no_space hspace),
        (exec_ackreq_abort hbuf hspace).trans (ackAbortStep_not_cancelled hcancel)⟩
    case abort =>
      intro hfull hcancel
      have habort := ackAbortStep_ack hst hreq (decide_eq_true hfull) hcancel
      exact ⟨_, habort, (exec_ackreq_abort hbuf (hasSpace_of_full hfull)).trans habort, rfl⟩
  case exempt =>
    intro s b rest a r u hst hopen hwire hbuf
    have hend := cs2Step_byte hst (recvByte_cons hopen hwire)
    have hexempt : exempt s.rx.buf = true := by rw [hbuf, exempt_typeByte]
    exact ⟨_, hend, (exec_typeExempt_cs2 hbuf).trans hend, rfl, validity_of_exempt hexempt b⟩

/-! ### The listener port -/

/-- What is offered to the listener at the index of the snapshot (45_dispatch R165). -/
theorem offer_dispatch {lid : LID} (hst : s.rx.st = .dispatch) (hbuf : s.rx.buf = b :: u)
    (hlid : s.rx.snap[s.rx.idx]? = some lid) : s.offer = some { lid := lid, type6 := typeCode b, payload := b :: u } := by
  simp only [State.offer, RxRegs.offer, hst, hlid, hbuf]

theorem execNotify_eq_if {n : Notification LID} (ho : s.offer = some n) (hnone : s.lisAns = none) (lid : LID)
    (ans : ListenerAnswer) :
    execNotify lid ans s =
      if n.isFor lid then .next { s with notes := s.notes ++ [(n, ans)], lisAns := some ans } else hold s := by
  simp only [execNotify, ho, hnone]

/-- Settles O51: the notification offered is for the listener at the index, so that one takes it and any other holds. -/
theorem listenerNotified : Obligations.ListenerNotified := by
  intro s b t lid other ans hst hbuf hlid hnone
  have hnotify := execNotify_eq_if (offer_dispatch hst hbuf hlid) hnone
  refine ⟨(hnotify lid ans).trans (if_pos (decide_eq_true rfl)), fun hne => ?_⟩
  exact (hnotify other ans).trans (if_neg (by simpa [Notification.isFor] using hne.symm))

end Sys2Proof.Machine
end

section
/-! Settles O60 (30_encoding R78, R79, R82, R83; 60_exceptions R194). A code is the number of its constructor, counted from
0, or from 1 for the events; so different constructors have different codes, and the largest code is the last one's. -/

namespace Sys2Proof.Machine

/-! ### Codes -/

theorem Conn.code_ne_three (c : Conn) : c.code ≠ 3 := by cases c <;> decide

theorem TxSt.code_le (x : TxSt) : x.code.toNat ≤ 4 := by cases x <;> decide

theorem RxSt.code_le (x : RxSt) : x.code.toNat ≤ 9 := by cases x <;> decide

theorem Status.code_toNat (x : Status) : x.code.toNat = x.ctorIdx := by cases x <;> rfl

theorem Reason.code_toNat (x : Reason) : x.code.toNat = x.ctorIdx := by cases x <;> rfl

theorem Event.code_toNat {L : Type} (x : Event L) : x.code.toNat = x.ctorIdx + 1 := by cases x <;> rfl

theorem Status.code_le (x : Status) : x.code.toNat ≤ 2 := by cases x <;> decide

theorem Reason.code_le (x : Reason) : x.code.toNat ≤ 6 := by cases x <;> decide

theorem Event.ctorIdx_le {L : Type} (x : Event L) : x.ctorIdx ≤ 11 := by cases x <;> exact Nat.le_of_ble_eq_true rfl

theorem Status.code_injective : Function.Injective Status.code := fun x y h => by
  have hidx : x.ctorIdx = y.ctorIdx := by rw [← Status.code_toNat, h, Status.code_toNat]
  rw [← Status.ofNat_ctorIdx x, hidx, Status.ofNat_ctorIdx]

theorem Reason.code_injective : Function.Injective Reason.code := fun x y h => by
  have hidx : x.ctorIdx = y.ctorIdx := by rw [← Reason.code_toNat, h, Reason.code_toNat]
  rw [← Reason.ofNat_ctorIdx x, hidx, Reason.ofNat_ctorIdx]

theorem Event.ctorIdx_eq_of_code_eq {L : Type} {x y : Event L} (h : x.code = y.code) : x.ctorIdx = y.ctorIdx :=
  Nat.add_right_cancel (m := 1) (by rw [← Event.code_toNat, h, Event.code_toNat])

/-! ### Building a block, and what CONNECT answers -/

theorem Params.not_legal_iff (c : Params) : ¬ c.legal ↔ c.qcap = 0 ∨ c.lmax = 0 ∨ c.hosts = 0 := by
  unfold Params.legal; omega

theorem State.build_eq (c : Params) (now : Nat) :
    State.build c now = if c.qcap = 0 ∨ c.lmax = 0 ∨ c.hosts = 0 then none else some (State.powerOn c now) := by
  rw [State.build, ← ite_not]
  exact if_congr (Params.not_legal_iff c) rfl rfl

variable {s : State} {h : Nat} {p q : HostPort}

theorem respond_resp (hp : s.host[h]? = some p) (r : Response) (hq : (s.respond h r).host[h]? = some q) :
    q.resp = p.resp ++ [r] := by
  obtain rfl : p.respond r = q := by simpa [State.respond, State.setHost, hp] using hq
  rfl

theorem connect_resp {t : State} (hp : s.host[h]? = some p) (e : exec (.connect h) s = .next t)
    (hq : t.host[h]? = some q) :
    q.resp = p.resp ∨ q.resp = p.resp ++ [okResponse] ∨ q.resp = p.resp ++ [refusedResponse .alreadyConnected] := by
  simp only [exec, execConnect] at e
  obtain rfl | ⟨-, rfl⟩ := issue_cases e
  · obtain rfl := Option.some.inj (hp.symm.trans hq)
    exact .inl rfl
  · split at hq
    · exact .inr (.inl (respond_resp (s := s.connect) hp okResponse hq))
    · exact .inr (.inr (respond_resp hp (refusedResponse .alreadyConnected) hq))

/-- Settles O60: the outputs are the codes of their registers, and each part is the lemma about its codes, building a block
or CONNECT. -/
theorem codesAndBuild : Obligations.CodesAndBuild := by
  refine ⟨?outputs, ?status, ?reason, ?event, rfl, rfl, rfl, rfl, State.build_eq, ?connect⟩
  case outputs =>
    exact fun s => ⟨rfl, s.conn.code_ne_three, rfl, s.tx.st.code_le, rfl, s.rx.st.code_le, rfl, rfl, rfl⟩
  case status => exact fun x y => ⟨x.code_le, fun h => Status.code_injective h, rfl⟩
  case reason => exact fun x y => ⟨x.code_le, fun h => Reason.code_injective h, rfl⟩
  case event =>
    intro x y
    have hcode := x.code_toNat
    have hidx := x.ctorIdx_le
    exact ⟨by omega, by omega, Event.ctorIdx_eq_of_code_eq, by cases x <;> rfl⟩
  case connect => exact fun s t h p q hp e hq => connect_resp hp e hq

end Sys2Proof.Machine
end

section
/-! Settles O1, O2 and O3 (40_codec R86 to R89). The two running sums are residues mod 255 of two natural numbers, the sum of
the bytes and the sum weighted by the distance from the end; what the checksum can and cannot tell apart is read off these. -/

namespace Sys2Proof.Machine

/-! ### The adder (40_codec R86) -/

theorem add255_toNat (a b : Byte) : (add255 a b).toNat = (a.toNat + b.toNat) % 255 := by
  rw [add255, BitVec.toNat_ofNat]
  omega

/-- Settles O1: the carry out of 8 bits is worth 256, which is 1 mod 255; the sum splits at 255 and above it. -/
theorem add255IsEndAroundCarry : Obligations.Add255IsEndAroundCarry := by
  intro a b
  have ha := a.isLt
  have hb := b.isLt
  rw [add255_toNat]
  refine ⟨rfl, by omega, ?_⟩
  obtain hlow | hone | hcarry : a.toNat + b.toNat < 255 ∨ a.toNat + b.toNat = 255 ∨ 255 < a.toNat + b.toNat := by omega
  · simp only [Nat.mod_eq_of_lt hlow, if_neg hlow.le.not_gt, if_neg hlow.ne]
  · simp [hone]
  · simp only [if_pos hcarry]
    split <;> omega

/-! ### The two sums of a message -/

/-- The sum of the bytes (40_codec R88). -/
def byteSum (m : Message) : Nat := ∑ i : Fin m.length, (m.get i).toNat

/-- The sum of the bytes, each as often as `sum2` takes it (40_codec R88). -/
def weightedSum (m : Message) : Nat := ∑ i : Fin m.length, (m.length - i.val) * (m.get i).toNat

theorem byteSum_cons (b : Byte) (t : Message) : byteSum (b :: t) = b.toNat + byteSum t := Fin.sum_univ_succ _

theorem weightedSum_cons (b : Byte) (t : Message) :
    weightedSum (b :: t) = (t.length + 1) * b.toNat + weightedSum t :=
  (Fin.sum_univ_succ _).trans (by simp [weightedSum])

theorem byteSum_set {m : Message} {i : Nat} (hi : i < m.length) (x : Byte) :
    byteSum (m.set i x) + m[i].toNat = byteSum m + x.toNat := by
  induction m generalizing i with
  | nil => exact absurd hi (Nat.not_lt_zero i)
  | cons b t ih =>
    cases i with
    | zero => simp only [List.set_cons_zero, List.getElem_cons_zero, byteSum_cons]; omega
    | succ k =>
      have hset := ih (Nat.lt_of_succ_lt_succ hi)
      simp only [List.set_cons_succ, List.getElem_cons_succ, byteSum_cons]
      omega

theorem weightedSum_set {m : Message} {i : Nat} (hi : i < m.length) (x : Byte) :
    weightedSum (m.set i x) + (m.length - i) * m[i].toNat = weightedSum m + (m.length - i) * x.toNat := by
  induction m generalizing i with
  | nil => exact absurd hi (Nat.not_lt_zero i)
  | cons b t ih =>
    cases i with
    | zero =>
      simp only [List.set_cons_zero, List.getElem_cons_zero, weightedSum_cons, List.length_cons, Nat.sub_zero]
      omega
    | succ k =>
      have hset := ih (Nat.lt_of_succ_lt_succ hi)
      simp only [List.set_cons_succ, List.getElem_cons_succ, weightedSum_cons, List.length_cons, List.length_set,
        Nat.add_sub_add_right]
      omega

theorem byteSum_replicate (n : Nat) (x : Byte) : byteSum (List.replicate n x) = n * x.toNat := by
  simp [byteSum]

theorem two_mul_weightedSum_replicate (n : Nat) (x : Byte) :
    2 * weightedSum (List.replicate n x) = n * (n + 1) * x.toNat := by
  induction n with
  | zero => simp [weightedSum]
  | succ n ih => rw [List.replicate_succ, weightedSum_cons, List.length_replicate, Nat.mul_add, ih]; ring

/-! ### The running sums (40_codec R87) -/

/-- Two running sums, given as natural numbers and kept mod 255. -/
def sumPair (a b : Nat) : Byte × Byte := (BitVec.ofNat 8 (a % 255), BitVec.ofNat 8 (b % 255))

theorem sumPair_fst_toNat (a b : Nat) : (sumPair a b).1.toNat = a % 255 := by
  rw [sumPair, BitVec.toNat_ofNat]
  omega

theorem sumPair_snd_toNat (a b : Nat) : (sumPair a b).2.toNat = b % 255 := sumPair_fst_toNat b 0

theorem sumPair_congr {a a' b b' : Nat} (ha : a % 255 = a' % 255) (hb : b % 255 = b' % 255) :
    sumPair a b = sumPair a' b' := by rw [sumPair, sumPair, ha, hb]

/-- A step in natural numbers: whatever the old sums are, only their residues mod 255 matter. -/
theorem sumStep_eq_sumPair (p : Byte × Byte) (d : Byte) :
    sumStep p d = sumPair (p.1.toNat + d.toNat) (p.2.toNat + (p.1.toNat + d.toNat)) := by
  have hsum2 : add255 p.2 (add255 p.1 d) = BitVec.ofNat 8 ((p.2.toNat + (p.1.toNat + d.toNat)) % 255) := by
    rw [add255, add255_toNat, Nat.add_mod_mod]
  exact Prod.ext rfl hsum2

theorem sumStep_sumPair (a b : Nat) (d : Byte) :
    sumStep (sumPair a b) d = sumPair (a + d.toNat) (b + (a + d.toNat)) := by
  rw [sumStep_eq_sumPair, sumPair_fst_toNat, sumPair_snd_toNat]
  exact sumPair_congr (by omega) (by omega)

theorem foldl_sumStep (m : Message) (a b : Nat) :
    m.foldl sumStep (sumPair a b) = sumPair (a + byteSum m) (b + m.length * a + weightedSum m) := by
  induction m generalizing a b with
  | nil => simp [byteSum, weightedSum]
  | cons d t ih =>
    rw [List.foldl_cons, sumStep_sumPair, ih, byteSum_cons, weightedSum_cons, List.length_cons]
    congr 1 <;> ring

theorem lengthByte_toNat {m : Message} (hm : m.length ≤ 255) : (BitVec.ofNat 8 m.length).toNat = m.length := by
  rw [BitVec.toNat_ofNat]
  omega

theorem sumStep_sumSeed {m : Message} (hm : m.length ≤ 255) (d : Byte) :
    sumStep (sumSeed m.length) d = sumStep (sumPair m.length m.length) d := by
  rw [sumStep_sumPair, sumStep_eq_sumPair, sumSeed, lengthByte_toNat hm]

/-- The seed 255 is no residue mod 255, but the first byte of the message reads it as 0 (40_codec R87). -/
theorem checksum_eq_foldl_sumPair {m : Message} (hm : m.length ≤ 255) :
    checksum m = m.foldl sumStep (sumPair m.length m.length) := by
  cases m with
  | nil => rfl
  | cons d t => rw [checksum, List.foldl_cons, List.foldl_cons, sumStep_sumSeed hm]

/-- Seeding with the length is a first step from 0 on the length byte (40_codec R88). -/
theorem checksum_eq_foldl_lengthByte {m : Message} (hm : m.length ≤ 255) :
    checksum m = (BitVec.ofNat 8 m.length :: m).foldl sumStep (0, 0) := by
  have hseed : sumStep (0, 0) (BitVec.ofNat 8 m.length) = sumPair m.length m.length := by
    simp [sumStep_eq_sumPair, lengthByte_toNat hm]
  rw [checksum_eq_foldl_sumPair hm, List.foldl_cons, hseed]

/-- The closed form of the checksum (40_codec R88). -/
theorem checksum_eq_sumPair {m : Message} (hm : m.length ≤ 255) :
    checksum m = sumPair (m.length + byteSum m) (m.length * (m.length + 1) + weightedSum m) := by
  rw [checksum_eq_foldl_sumPair hm, foldl_sumStep]
  congr 2
  ring

/-- Settles O2: the closed form, and the length byte as the first byte summed. -/
theorem checksumClosedForm : Obligations.ChecksumClosedForm := by
  intro m hm
  refine ⟨?sum1, ?sum2, checksum_eq_foldl_lengthByte hm⟩
  case sum1 => rw [checksum_eq_sumPair hm, sumPair_fst_toNat]; rfl
  case sum2 => rw [checksum_eq_sumPair hm, sumPair_snd_toNat]; rfl

/-! ### What the checksum cannot tell apart (40_codec R89) -/

theorem checksum_le {m : Message} (hm : m.length ≤ 255) : (checksum m).1.toNat ≤ 254 ∧ (checksum m).2.toNat ≤ 254 := by
  rw [checksum_eq_sumPair hm, sumPair_fst_toNat, sumPair_snd_toNat]
  omega

theorem sumStep_zero_eq_sumStep_255 (p : Byte × Byte) : sumStep p 0x00 = sumStep p 0xFF := by
  rw [sumStep_eq_sumPair, sumStep_eq_sumPair]
  exact sumPair_congr (by simp) (by simp [← Nat.add_assoc])

theorem checksum_zero_eq_checksum_255 (pre post : Message) :
    checksum (pre ++ 0x00 :: post) = checksum (pre ++ 0xFF :: post) := by
  simp only [checksum, List.length_append, List.length_cons, List.foldl_append, List.foldl_cons,
    sumStep_zero_eq_sumStep_255]

/-- A message with the bytes at `i` and `j` swapped. -/
abbrev swapBytes (m : Message) (i j : Fin m.length) : Message := (m.set i (m.get j)).set j (m.get i)

/-- What the swap adds to the weighted sum (40_codec R89 (d)). -/
def swapDiff (m : Message) (i j : Fin m.length) : Int :=
  (((m.get i).toNat : Int) - (m.get j).toNat) * ((i.val : Int) - j.val)

section Swap

variable {m : Message} (i j : Fin m.length)

/-- After the first of the two writes the byte at `j` is still the one of `m`, where `i = j` too. -/
theorem getElem_set_get (hj : j.val < (m.set i (m.get j)).length) : (m.set i (m.get j))[j.val] = m.get j := by
  rw [List.getElem_set]
  exact ite_eq_left_iff.mpr fun _ => rfl

theorem byteSum_swapBytes : byteSum (swapBytes m i j) = byteSum m := by
  have hj : j.val < (m.set i (m.get j)).length := j.isLt.trans_eq List.length_set.symm
  have hfirst := byteSum_set i.isLt (m.get j)
  have hsecond := byteSum_set hj (m.get i)
  rw [getElem_set_get] at hsecond
  simp only [List.get_eq_getElem, swapBytes] at *
  omega

theorem weightedSum_swapBytes :
    (weightedSum (swapBytes m i j) : Int) = weightedSum m + swapDiff m i j := by
  have hj : j.val < (m.set i (m.get j)).length := j.isLt.trans_eq List.length_set.symm
  have hfirst := weightedSum_set i.isLt (m.get j)
  have hsecond := weightedSum_set hj (m.get i)
  rw [getElem_set_get, List.length_set] at hsecond
  zify [i.isLt.le, j.isLt.le] at hfirst hsecond
  simp only [List.get_eq_getElem, swapBytes, swapDiff] at *
  linear_combination hfirst + hsecond

/-- The swap leaves the first byte, and the second takes what it adds to the weighted sum, mod 255 (40_codec R89 (d)). -/
theorem checksum_swapBytes (hm : m.length ≤ 255) :
    (checksum (swapBytes m i j)).1 = (checksum m).1 ∧
      (((checksum (swapBytes m i j)).2.toNat : Int) - (checksum m).2.toNat) % 255 = swapDiff m i j % 255 := by
  have hlen : (swapBytes m i j).length = m.length := by simp
  have hweighted := weightedSum_swapBytes i j
  rw [checksum_eq_sumPair hm, checksum_eq_sumPair (hlen.trans_le hm), hlen, byteSum_swapBytes, sumPair_snd_toNat,
    sumPair_snd_toNat]
  refine ⟨rfl, ?_⟩
  generalize m.length * (m.length + 1) = c at *
  omega

/-- Two sums below 255 that differ by 0 mod 255 are equal. -/
theorem checksum_swapBytes_eq_iff (hm : m.length ≤ 255) :
    checksum (swapBytes m i j) = checksum m ↔ swapDiff m i j % 255 = 0 := by
  obtain ⟨hsum1, hsum2⟩ := checksum_swapBytes i j hm
  rw [← hsum2]
  constructor
  · intro heq
    rw [heq, Int.sub_self, Int.zero_emod]
  · intro hzero
    have hold := (checksum_le hm).2
    have hnew := (checksum_le (m := swapBytes m i j) (by simpa using hm)).2
    exact Prod.ext hsum1 (BitVec.eq_of_toNat_eq (by omega))

end Swap

/-- Every byte repeated 255 times has checksum `00 00`: both sums are multiples of 255 (40_codec R89 (e)). -/
theorem checksum_replicate_255 (x : Byte) : checksum (List.replicate 255 x) = (0x00, 0x00) := by
  have hweighted := two_mul_weightedSum_replicate 255 x
  rw [checksum_eq_sumPair List.length_replicate.le, List.length_replicate, byteSum_replicate]
  exact sumPair_congr (a' := 0) (b' := 0) (by omega) (by omega)

/-- Settles O3: the closed form gives the range and the swap; `00` and `FF` are the same step of the sums. -/
theorem checksumCornerCases : Obligations.ChecksumCornerCases := by
  refine ⟨fun _ => checksum_le, fun pre post _ => checksum_zero_eq_checksum_255 pre post, by decide,
    fun _ _ => congrArg checksum, ?swap, fun x _ => checksum_replicate_255 x⟩
  case swap =>
    intro m i j hm a b n d
    obtain ⟨hsum1, hsum2⟩ := checksum_swapBytes i j hm
    exact ⟨hsum1, hsum2, checksum_swapBytes_eq_iff i j hm⟩

end Sys2Proof.Machine
end

section
/-! Settles O4, O6 and O7 (40_codec R98 to R100). The data decoder takes the stuffing of one byte off the wire in one go,
whatever follows it; the rest is induction over the message. -/

namespace Sys2Proof.Machine

/-! ### Stuffed data -/

/-- The escape pairs and the plain bytes, each read as the byte they stand for (40_codec R91, R93). -/
theorem readData_stuff (n : Nat) (b : Byte) (w : List Byte) :
    readData (n + 1) (stuff b ++ w) = (readData n w).map fun r => (b :: r.1, r.2.1, r.2.2) := by
  cases hb : escaped b with
  | true => obtain rfl | rfl : b = 0x7E ∨ b = 0x7D := of_decide_eq_true hb <;> exact readData_pair n _ w
  | false =>
    rw [stuff_eq_singleton hb]
    exact readData_plain n (not_or.mp (of_decide_eq_false hb)).2 w

theorem readData_one_stuff (b : Byte) (w : List Byte) : readData 1 (stuff b ++ w) = some ([b], false, w) :=
  readData_stuff 0 b w

theorem readData_stuffSeq (m : Message) (r : List Byte) : readData m.length (stuffSeq m ++ r) = some (m, false, r) := by
  induction m with
  | nil => rfl
  | cons b t ih => rw [stuffSeq, List.append_assoc, List.length_cons, readData_stuff, ih, Option.map_some]

theorem stuff_append_inj {b c : Byte} {v w : List Byte} (h : stuff b ++ v = stuff c ++ w) : b = c ∧ v = w := by
  have hread : some ([b], false, v) = some ([c], false, w) := by
    rw [← readData_one_stuff, h, readData_one_stuff]
  simpa using hread

theorem stuff_ne_nil (b : Byte) : stuff b ≠ [] := by
  intro h
  simpa [h, readData] using readData_one_stuff b []

theorem stuffSeq_injective : Function.Injective stuffSeq := by
  intro m
  induction m with
  | nil =>
    rintro (_ | ⟨c, u⟩) h
    · rfl
    · exact absurd (List.append_eq_nil_iff.mp h.symm).1 (stuff_ne_nil c)
  | cons b t ih =>
    rintro (_ | ⟨c, u⟩) h
    · exact absurd (List.append_eq_nil_iff.mp h).1 (stuff_ne_nil b)
    · obtain ⟨rfl, htail⟩ := stuff_append_inj h
      rw [ih htail]

/-- Settles O4: a byte is a message of one byte with nothing after it. -/
theorem unstuffInvertsStuff : Obligations.UnstuffInvertsStuff := by
  refine ⟨fun b => ?_, readData_stuffSeq, fun _ _ h => stuffSeq_injective h⟩
  rw [← readData_one_stuff b [], List.append_nil]

theorem flagByte_not_mem_stuff (b : Byte) : (0x7E : Byte) ∉ stuff b := by
  cases hb : escaped b with
  | true => obtain rfl | rfl : b = 0x7E ∨ b = 0x7D := of_decide_eq_true hb <;> decide
  | false =>
    rw [stuff_eq_singleton hb, List.mem_singleton]
    exact fun h => (not_or.mp (of_decide_eq_false hb)).1 h.symm

theorem flagByte_not_mem_stuffSeq (m : Message) : (0x7E : Byte) ∉ stuffSeq m := by
  induction m with
  | nil => exact List.not_mem_nil
  | cons b t ih => exact List.not_mem_append (flagByte_not_mem_stuff b) ih

/-! ### Frames -/

/-- The length byte is the second byte of a frame (40_codec R94). -/
theorem encodeFrame_one (m : Message) : (encodeFrame m)[1]? = some (BitVec.ofNat 8 m.length) := rfl

theorem lengthByte_eq_flagByte_iff {m : Message} (hm : m.length ≤ 255) :
    BitVec.ofNat 8 m.length = 0x7E ↔ m.length = 126 := by
  rw [← BitVec.toNat_inj, lengthByte_toNat hm]
  rfl

/-- Settles O6: stuffing replaces each flag byte; the length byte and the checksum are not stuffed. -/
theorem stuffedDataHasNoFlag : Obligations.StuffedDataHasNoFlag := by
  refine ⟨flagByte_not_mem_stuffSeq, fun m hm => ?len, by decide, ?zeros, by decide⟩
  case len => rw [encodeFrame_one, Option.some_inj, lengthByte_eq_flagByte_iff hm]
  case zeros =>
    rw [checksum_eq_sumPair (by rw [List.length_replicate]; decide), List.length_replicate, byteSum_replicate]
    rfl

theorem valid_checksum (m : Message) : valid m (checksum m).1 (checksum m).2 false = true := by
  simp [valid, cksMatch]

theorem huntFlag_flagByte (w : List Byte) : huntFlag (flagByte :: w) = some w := if_pos rfl

/-- Settles O7: the hunt stops at the flag, the length byte is the message's length, and the data loop leaves the checksum
bytes and `r`. -/
theorem decodeFrameRoundTrip : Obligations.DecodeFrameRoundTrip := by
  intro m r hm
  simp only [encodeFrame, List.cons_append, List.append_assoc, List.nil_append, decodeFrame, huntFlag_flagByte,
    lengthByte_toNat hm, readData_stuffSeq, valid_checksum]

end Sys2Proof.Machine
end

section
/-! For O12, O13 and O21: what the invariant reads, and the operations that keep it (41_queue R102, 44_receiver R144,
45_dispatch R157, 10_state R21 to R23, R27, R30). It reads a part of the state, the governed registers, and of a host port
only its command. -/

namespace Sys2Proof.Machine

variable {s t : State} {h : Nat} {c : HostCmd} {m : Message}

/-! ### The commands the host ports execute -/

/-- The command of each host port. -/
def State.cmds (s : State) : List (Option HostCmd) := s.host.map HostPort.cmd

/-- What a port may execute in a connection state (46_host_ops R170, R172, R174): `HostPort.okIn` of its command. -/
def CmdOk (conn : Conn) (c : Option HostCmd) : Prop := HostPort.okIn { HostPort.powerOn with cmd := c } conn

/-- The commands of all ports: `State.hostOk` of them (46_host_ops R170). -/
structure CmdsOk (ports : Nat) (conn : Conn) (cs : List (Option HostCmd)) : Prop where
  length : cs.length = ports
  each : ∀ c ∈ cs, CmdOk conn c
  closing : conn = .closing → some .disconnect ∈ cs

theorem State.hostOk_iff : s.hostOk ↔ CmdsOk s.cfg.hosts s.conn s.cmds := by
  constructor
  · rintro ⟨hlen, heach, hclosing⟩
    refine ⟨by rw [State.cmds, List.length_map, hlen], ?_, fun hc => List.mem_map.mpr (hclosing hc)⟩
    exact List.forall_mem_map.mpr heach
  · rintro ⟨hlen, heach, hclosing⟩
    refine ⟨by rw [← hlen, State.cmds, List.length_map], ?_, fun hc => List.mem_map.mp (hclosing hc)⟩
    exact List.forall_mem_map.mp heach

section
variable {conn conn' : Conn} {tMs : Nat}

@[simp] theorem cmdOk_none : CmdOk conn none := trivial

@[simp] theorem cmdOk_send : CmdOk conn (some (.send m)) ↔ m.length ≤ 255 := Iff.rfl

@[simp] theorem cmdOk_sendTimed : CmdOk conn (some (.sendTimed m tMs)) ↔ m.length ≤ 255 := Iff.rfl

@[simp] theorem cmdOk_setClock : CmdOk conn (some (.setClock m)) ↔ m.length ≤ 255 := Iff.rfl

@[simp] theorem cmdOk_disconnect : CmdOk conn (some .disconnect) ↔ conn = .closing := Iff.rfl

/-- Only a held DISCONNECT depends on the connection state. -/
theorem CmdOk.congr {c : Option HostCmd} (hc : CmdOk conn c) (hne : c ≠ some .disconnect) :
    CmdOk conn' c := by
  cases c with
  | none => trivial
  | some c =>
    cases c with
    | send => exact cmdOk_send.mpr (cmdOk_send.mp hc)
    | sendTimed => exact cmdOk_sendTimed.mpr (cmdOk_sendTimed.mp hc)
    | setClock => exact cmdOk_setClock.mpr (cmdOk_setClock.mp hc)
    | disconnect => exact absurd rfl hne
end

/-- A port that does not wait for the completion of a disconnect takes or ends a command. -/
theorem CmdsOk.set {n : Nat} {conn : Conn} {cs : List (Option HostCmd)} {c : Option HostCmd} (hcs : CmdsOk n conn cs)
    (hc : CmdOk conn c) (hne : cs[h]? ≠ some (some .disconnect)) : CmdsOk n conn (cs.set h c) where
  length := by rw [List.length_set, hcs.length]
  each d hd := by
    rcases List.mem_or_eq_of_mem_set hd with hd | rfl
    · exact hcs.each d hd
    · exact hc
  closing hclosing := by
    obtain ⟨j, hj⟩ := List.mem_iff_getElem?.mp (hcs.closing hclosing)
    have hjh : h ≠ j := fun hhj => hne (hhj ▸ hj)
    exact List.mem_iff_getElem?.mpr ⟨j, by rw [List.getElem?_set_ne hjh, hj]⟩

theorem State.cmds_getElem? (s : State) (h : Nat) : s.cmds[h]? = s.host[h]?.map HostPort.cmd := List.getElem?_map ..

theorem cmds_of_portIdle (hi : s.portIdle h = true) : s.cmds[h]? = some none := by
  rw [State.cmds_getElem?]
  unfold State.portIdle at hi
  split at hi
  · next p hp => simpa [hp] using hi
  · cases hi

theorem cmds_of_hostCmd (hc : s.hostCmd h = some c) : s.cmds[h]? = some (some c) := by
  rw [State.cmds_getElem?]
  unfold State.hostCmd at hc
  split at hc
  · next p hp => simp [hp, hc]
  · cases hc

theorem ne_disconnect_of_portIdle (hidle : s.portIdle h = true) : s.cmds[h]? ≠ some (some .disconnect) := by
  rw [cmds_of_portIdle hidle]
  nofun

theorem ne_disconnect_of_hostCmd (hc : s.hostCmd h = some c) (hne : c ≠ .disconnect) :
    s.cmds[h]? ≠ some (some .disconnect) := by
  rw [cmds_of_hostCmd hc]
  simpa using hne

/-- A message APPEND inserts is one that a port is held with. -/
theorem length_le_of_appendMsg {conn : Conn} (hc : CmdOk conn (some c)) (hm : c.appendMsg? = some m) : m.length ≤ 255 := by
  cases c with
  | send =>
    cases hm
    exact cmdOk_send.mp hc
  | setClock =>
    cases hm
    exact cmdOk_setClock.mp hc
  | sendTimed | disconnect => cases hm

/-- Giving port `h` the command `c`, whatever else of the port changes. -/
theorem setHost_cmds_set {f : HostPort → HostPort} {c : Option HostCmd} (hf : ∀ p, (f p).cmd = c) :
    (s.setHost h f).cmds = s.cmds.set h c := by
  refine List.ext_getElem? fun i => ?_
  by_cases hi : h = i <;> simp [State.cmds, List.getElem?_set', hi, Function.comp_def, hf]

theorem setHost_cmds {f : HostPort → HostPort} (hf : ∀ p, (f p).cmd = p.cmd) : (s.setHost h f).cmds = s.cmds := by
  refine List.ext_getElem? fun i => ?_
  by_cases hi : h = i <;> simp [State.cmds, hi, Function.comp_def, hf]

@[simp] theorem State.respond_cmds (s : State) (h : Nat) (r : Response) : (s.respond h r).cmds = s.cmds.set h none :=
  setHost_cmds_set fun _ => rfl

@[simp] theorem State.insertAndRespond_cmds (s : State) (h : Nat) (m : Message) :
    (s.insertAndRespond h m).cmds = s.cmds.set h none := State.respond_cmds (s.enqueue m) h okResponse

@[simp] theorem State.setCmd_cmds (s : State) (h : Nat) (c : HostCmd) : (s.setCmd h c).cmds = s.cmds.set h (some c) :=
  setHost_cmds_set fun _ => rfl

@[simp] theorem State.rxGoto_cmds (s : State) (st : RxSt) : (s.rxGoto st).cmds = s.cmds := rfl

@[simp] theorem State.setDeadline_cmds (s : State) (h d : Nat) : (s.setDeadline h d).cmds = s.cmds :=
  setHost_cmds fun _ => rfl

/-- The completion of a disconnect ends the commands that wait for it (46_host_ops R171). -/
theorem CmdsOk.completeDisconnect (hcs : CmdsOk s.cfg.hosts s.conn s.cmds) :
    CmdsOk s.cfg.hosts .disconnected s.completeDisconnect.cmds where
  length := by rw [← hcs.length, State.cmds, State.cmds]; simp
  each := by
    refine List.forall_mem_map.mpr (List.forall_mem_map.mpr fun p hp => ?_)
    have hpc : CmdOk s.conn p.cmd := hcs.each _ (List.mem_map_of_mem hp)
    unfold HostPort.completeDisconnect
    split
    · exact cmdOk_none
    · next hne => exact hpc.congr hne
  closing := nofun

/-! ### What the invariant reads -/

/-- The registers the invariant reads. -/
def State.governed (s : State) :
    Params × Conn × Bool × Bool × List Message × TxRegs × RxRegs LID × List LID × Nat × List (Option HostCmd) ×
      Option ListenerAnswer :=
  (s.cfg, s.conn, s.streamOpen, s.cancel, s.q, s.tx, s.rx, s.reg, s.now, s.cmds, s.lisAns)

/-- While the block is not disconnected, the connection state fixes the stream and the cancellation, and both loops are on
(10_state R21 to R23). -/
theorem State.connOk_iff_of_ne (hn : s.conn ≠ .disconnected) :
    s.connOk ↔ s.streamOpen = decide (s.conn = .connected) ∧ s.cancel = decide (s.conn = .closing) ∧
      s.tx.st ≠ .off ∧ s.rx.st ≠ .off := by
  unfold State.connOk
  cases hc : s.conn with
  | disconnected => exact absurd hc hn
  | connected | closing => simp

theorem State.connOk_of_ne (hn : s.conn ≠ .disconnected) (hstream : s.streamOpen = decide (s.conn = .connected))
    (hcancel : s.cancel = decide (s.conn = .closing)) (htx : s.tx.st ≠ .off) (hrx : s.rx.st ≠ .off) : s.connOk :=
  (State.connOk_iff_of_ne hn).mpr ⟨hstream, hcancel, htx, hrx⟩

theorem State.connOk_iff_of_eq (hd : s.conn = .disconnected) :
    s.connOk ↔ s.streamOpen = false ∧ s.tx.st = .off ∧ s.rx.st = .off ∧ s.q = [] ∧ s.reg = [] := by
  simp only [State.connOk, hd]

/-- The invariant reads the governed registers only. -/
theorem State.Inv.congr (hs : s.Inv) (ht : t.governed = s.governed) : t.Inv := by
  simp only [State.governed, Prod.mk.injEq] at ht
  obtain ⟨hcfg, hconn, hstream, hcancel, hq, htx, hrx, hreg, hnow, hcmds, hlis⟩ := ht
  exact {
    config := by rw [hcfg]; exact hs.config
    queue := by rw [State.queueOk, hq, hcfg]; exact hs.queue
    registry := by rw [State.registryOk, hreg, hcfg]; exact hs.registry
    conn := by unfold State.connOk; rw [hconn, hstream, hcancel, hq, htx, hrx, hreg]; exact hs.conn
    tx := by rw [State.txOk, htx, hnow, hcfg]; exact hs.tx
    rx := by unfold State.rxOk; rw [hrx, hcfg]; exact hs.rx
    host := by rw [State.hostOk_iff, hcmds, hcfg, hconn, ← State.hostOk_iff]; exact hs.host
    listener := by rw [State.listenerOk, hrx, hlis]; exact hs.listener }

theorem governed_q (ht : t.governed = s.governed) : t.q = s.q := by
  simp only [State.governed, Prod.mk.injEq] at ht
  obtain ⟨-, -, -, -, hq, -⟩ := ht
  exact hq

theorem governed_tx (ht : t.governed = s.governed) : t.tx = s.tx := by
  simp only [State.governed, Prod.mk.injEq] at ht
  obtain ⟨-, -, -, -, -, htx, -⟩ := ht
  exact htx

/-! ### What keeps the invariant -/

theorem State.Inv.cmdsOk (hs : s.Inv) : CmdsOk s.cfg.hosts s.conn s.cmds := State.hostOk_iff.mp hs.host

theorem State.Inv.conn_ne_of_tx_on (hs : s.Inv) (hon : s.tx.st ≠ .off) : s.conn ≠ .disconnected := fun hd => by
  obtain ⟨-, htx, -⟩ := (State.connOk_iff_of_eq hd).mp hs.conn
  exact hon htx

theorem State.Inv.conn_ne_of_rx_on (hs : s.Inv) (hon : s.rx.st ≠ .off) : s.conn ≠ .disconnected := fun hd => by
  obtain ⟨-, -, hrx, -⟩ := (State.connOk_iff_of_eq hd).mp hs.conn
  exact hon hrx

/-- A message a port is held with fits a frame (46_host_ops R174). -/
theorem State.Inv.cmdOk_of_hostCmd (hs : s.Inv) (hc : s.hostCmd h = some c) : CmdOk s.conn (some c) :=
  hs.cmdsOk.each _ (List.mem_of_getElem? (cmds_of_hostCmd hc))

/-- A response ends any command but a held DISCONNECT. -/
theorem State.Inv.respond (hs : s.Inv) (r : Response) (hne : s.cmds[h]? ≠ some (some .disconnect)) :
    (s.respond h r).Inv :=
  { hs with host := State.hostOk_iff.mpr (by
      rw [State.respond_cmds]
      exact hs.cmdsOk.set cmdOk_none hne) }

theorem State.Inv.setCmd (hs : s.Inv) (hidle : s.portIdle h = true) (hc : CmdOk s.conn (some c)) :
    (s.setCmd h c).Inv :=
  { hs with host := State.hostOk_iff.mpr (by
      rw [State.setCmd_cmds]
      exact hs.cmdsOk.set hc (by rw [cmds_of_portIdle hidle]; nofun)) }

/-- A change of the queue while the block is not disconnected. -/
theorem State.Inv.setQ (hs : s.Inv) {q : List Message} (hn : s.conn ≠ .disconnected)
    (hq : State.queueOk { s with q := q }) : State.Inv { s with q := q } :=
  { hs with
    queue := hq
    conn := by
      obtain ⟨hstream, hcancel, htx, hrx⟩ := (State.connOk_iff_of_ne hn).mp hs.conn
      exact State.connOk_of_ne hn hstream hcancel htx hrx }

theorem State.Inv.setReg (hs : s.Inv) {reg : List LID} (hd : s.conn = .disconnected → reg = [])
    (hreg : State.registryOk { s with reg := reg }) : State.Inv { s with reg := reg } :=
  { hs with
    registry := hreg
    conn := by
      by_cases hc : s.conn = .disconnected
      · obtain ⟨hstream, htx, hrx, hq, -⟩ := (State.connOk_iff_of_eq hc).mp hs.conn
        exact (State.connOk_iff_of_eq (s := { s with reg := reg }) hc).mpr ⟨hstream, htx, hrx, hq, hd hc⟩
      · obtain ⟨hstream, hcancel, htx, hrx⟩ := (State.connOk_iff_of_ne hc).mp hs.conn
        exact State.connOk_of_ne hc hstream hcancel htx hrx }

/-- A step of the Transmitter between two states in which it is on. -/
theorem State.Inv.setTx (hs : s.Inv) {r : TxRegs} (hon : s.tx.st ≠ .off) (hr : r.st ≠ .off)
    (hok : State.txOk { s with tx := r }) : State.Inv { s with tx := r } :=
  have hn := hs.conn_ne_of_tx_on hon
  { hs with
    tx := hok
    conn := by
      obtain ⟨hstream, hcancel, -, hrx⟩ := (State.connOk_iff_of_ne hn).mp hs.conn
      exact State.connOk_of_ne hn hstream hcancel hr hrx }

/-- A step of the Receiver between two states in which it is on. -/
theorem State.Inv.setRx (hs : s.Inv) {r : RxRegs LID} (hon : s.rx.st ≠ .off) (hr : r.st ≠ .off)
    (hok : State.rxOk { s with rx := r }) (hlis : r.st ≠ .dispatch → s.lisAns = none) : State.Inv { s with rx := r } :=
  have hn := hs.conn_ne_of_rx_on hon
  { hs with
    rx := hok
    listener := hlis
    conn := by
      obtain ⟨hstream, hcancel, htx, -⟩ := (State.connOk_iff_of_ne hn).mp hs.conn
      exact State.connOk_of_ne hn hstream hcancel htx hr }

/-- A listener's answer may come or go during a dispatch. -/
theorem State.Inv.setLisAns (hs : s.Inv) (hst : s.rx.st = .dispatch) (a : Option ListenerAnswer) :
    State.Inv { s with lisAns := a } :=
  { hs with listener := fun hne => absurd hst hne }

theorem State.Inv.connect (hs : s.Inv) (hd : s.conn = .disconnected) : s.connect.Inv :=
  have hrx : s.rx.st = .off := by
    obtain ⟨-, -, hrx, -⟩ := (State.connOk_iff_of_eq hd).mp hs.conn
    exact hrx
  { hs with
    queue := ⟨Nat.zero_le _, nofun⟩
    registry := ⟨List.nodup_nil, Nat.zero_le _⟩
    conn := ⟨rfl, rfl, nofun, nofun⟩
    tx := ⟨fun _ => le_rfl, nofun⟩
    rx := trivial
    host := State.hostOk_iff.mpr
      { length := hs.cmdsOk.length
        each := fun c hc => (hs.cmdsOk.each c hc).congr fun e => by
          have hcl := hs.cmdsOk.each c hc
          rw [e, cmdOk_disconnect, hd] at hcl
          cases hcl
        closing := nofun }
    listener := fun _ => hs.listener (by rw [hrx]; nofun) }

/-- DISCONNECT's initiation: the port that issues it waits for the completion (46_host_ops R170). -/
theorem State.Inv.startClosing_setCmd (hs : s.Inv) (hc : s.conn = .connected) (hidle : s.portIdle h = true) :
    (s.startClosing.setCmd h .disconnect).Inv :=
  have hn : s.conn ≠ .disconnected := by rw [hc]; nofun
  have hports := hs.cmdsOk
  have hh : h < s.cmds.length := (List.getElem?_eq_some_iff.mp (cmds_of_portIdle hidle)).1
  { hs with
    conn := by
      obtain ⟨-, -, htx, hrx⟩ := (State.connOk_iff_of_ne hn).mp hs.conn
      exact ⟨rfl, rfl, htx, hrx⟩
    host := State.hostOk_iff.mpr (by
      rw [State.setCmd_cmds]
      exact {
        length := by rw [List.length_set]; exact hports.length
        each := fun d hd => by
          rcases List.mem_or_eq_of_mem_set hd with hd | rfl
          · by_cases he : d = some .disconnect
            · exact he ▸ cmdOk_disconnect.mpr rfl
            · exact (hports.each d hd).congr he
          · exact cmdOk_disconnect.mpr rfl
        closing := fun _ => List.mem_set hh _ }) }

theorem State.Inv.completeDisconnect (hs : s.Inv) (hc : s.conn = .closing) (hrx : s.rx.st = .stopped) :
    s.completeDisconnect.Inv :=
  have hn : s.conn ≠ .disconnected := by rw [hc]; nofun
  { hs with
    queue := ⟨Nat.zero_le _, nofun⟩
    registry := ⟨List.nodup_nil, Nat.zero_le _⟩
    conn := by
      obtain ⟨hstream, -⟩ := (State.connOk_iff_of_ne hn).mp hs.conn
      exact ⟨by simpa [hc] using hstream, rfl, rfl, rfl, rfl⟩
    tx := ⟨nofun, nofun⟩
    rx := trivial
    host := State.hostOk_iff.mpr hs.cmdsOk.completeDisconnect
    listener := fun _ => hs.listener (by rw [hrx]; nofun) }

/-- The clock only moves forward, so a deadline is never further away than one timeout (10_state R27). -/
theorem State.Inv.tick (hs : s.Inv) (ms : Nat) : (s.tick ms).Inv :=
  { hs with
    tx := ⟨fun hw => (hs.tx.1 hw).trans (Nat.add_le_add_right (Nat.le_add_right _ _) _), hs.tx.2⟩ }

/-! ### The Receiver's registers, state by state (44_receiver R139 to R151, 45_dispatch R160 to R163) -/

section
variable {r : RxRegs LID}

theorem State.rxOk_data (hst : s.rx.st = .data) : s.rxOk ↔ s.rx.buf.length < s.rx.len.toNat ∧ s.rx.sumsOk := by
  simp only [State.rxOk, hst]

theorem State.rxOk_cs1 (hst : s.rx.st = .cs1) : s.rxOk ↔ s.rx.payloadOk := by simp only [State.rxOk, hst]

theorem State.rxOk_cs2 (hst : s.rx.st = .cs2) : s.rxOk ↔ s.rx.payloadOk := by simp only [State.rxOk, hst]

theorem State.rxOk_ack (hst : s.rx.st = .ack) :
    s.rxOk ↔ s.rx.payloadOk ∧ s.rx.ok = valid s.rx.buf s.rx.c1 s.rx.c2 s.rx.serr := by
  simp only [State.rxOk, hst]

theorem State.rxOk_gate (hst : s.rx.st = .gate) :
    s.rxOk ↔ s.rx.payloadOk ∧ s.rx.ok = valid s.rx.buf s.rx.c1 s.rx.c2 s.rx.serr := by
  simp only [State.rxOk, hst]

theorem State.rxOk_dispatch (hst : s.rx.st = .dispatch) :
    s.rxOk ↔ s.rx.payloadOk ∧ s.rx.ok = true ∧ s.rx.ok = valid s.rx.buf s.rx.c1 s.rx.c2 s.rx.serr ∧
      1 ≤ s.rx.len.toNat ∧ s.rx.idx < s.rx.snap.length ∧ s.rx.snap.Nodup ∧ s.rx.snap.length ≤ s.cfg.lmax := by
  simp only [State.rxOk, hst]

theorem State.rxOk_hunt (hst : s.rx.st = .hunt) : s.rxOk := by simp only [State.rxOk, hst]

/-- The length byte starts both sums and an empty buffer (R139). -/
theorem rxOk_startFrame (s : State) (b : Byte) : State.rxOk { s with rx := s.rx.startFrame b } := by
  by_cases hb : b = 0
  · have hst : (s.rx.startFrame b).st = .cs1 := if_pos hb
    exact (State.rxOk_cs1 hst).mpr ⟨hb ▸ rfl, rfl, rfl⟩
  · have hst : (s.rx.startFrame b).st = .data := if_neg hb
    have hpos : 0 < b.toNat := Nat.pos_of_ne_zero fun h0 => hb (BitVec.eq_of_toNat_eq h0)
    exact (State.rxOk_data hst).mpr ⟨hpos, rfl⟩

/-- An accepted byte enters the sums with the buffer, and the last one ends the payload (R144). -/
theorem rxOk_accept (s : State) (hesc : r.esc = false) (hlt : r.buf.length < r.len.toNat) (hsums : r.sumsOk) (v : Byte) :
    State.rxOk { s with rx := r.accept v } := by
  have hlen : (r.accept v).buf.length = r.buf.length + 1 := List.length_append
  have hsums' : (r.accept v).sumsOk := by
    unfold RxRegs.sumsOk at hsums ⊢
    rw [RxRegs.accept, List.foldl_append, ← hsums]
    rfl
  by_cases hlast : r.buf.length + 1 = r.len.toNat
  · have hst : (r.accept v).st = .cs1 := if_pos hlast
    exact (State.rxOk_cs1 hst).mpr ⟨hlen.trans hlast, hesc, hsums'⟩
  · have hst : (r.accept v).st = .data := if_neg hlast
    exact (State.rxOk_data hst).mpr ⟨hlen ▸ lt_of_le_of_ne hlt hlast, hsums'⟩

/-- The running sums after a whole payload are its checksum (40_codec R87). -/
theorem RxRegs.payloadOk.sums_eq_checksum (hp : r.payloadOk) : (r.s1, r.s2) = checksum r.buf := by
  obtain ⟨hlen, -, hsums⟩ := hp
  rw [hsums, checksum, sumSeed, hlen, BitVec.ofNat_toNat, BitVec.setWidth_eq]

/-- The comparison with the running sums is that with the checksum of the payload (R146, 40_codec R90, R97). -/
theorem RxRegs.payloadOk.validity_eq_valid (hp : r.payloadOk) (b : Byte) :
    r.validity b = valid r.buf r.c1 b r.serr := by
  rw [RxRegs.validity, valid, RxRegs.sumsMatch, cksMatch, ← hp.sums_eq_checksum]
  simp only [Prod.mk.injEq]

/-- A dispatch starts with the first listener of the registry, if there is one (45_dispatch R160). -/
theorem rxOk_startDispatch (hs : s.Inv) (hst : s.rx.st = .gate) (hok : s.rx.ok = true) (hlen : 1 ≤ s.rx.len.toNat) :
    State.rxOk { s with rx := s.rx.startDispatch s.reg } := by
  obtain ⟨hp, hv⟩ := (State.rxOk_gate hst).mp hs.rx
  obtain ⟨hnodup, hlmax⟩ := hs.registry
  cases hreg : s.reg with
  | nil => exact State.rxOk_hunt rfl
  | cons lid rest =>
    rw [← hreg]
    have hst' : (s.rx.startDispatch s.reg).st = .dispatch := by rw [RxRegs.startDispatch, hreg]; rfl
    have hpos : 0 < s.reg.length := by rw [hreg]; exact Nat.succ_pos _
    exact (State.rxOk_dispatch hst').mpr ⟨hp, hok, hv, hlen, hpos, hnodup, hlmax⟩

/-- The next listener is in the snapshot, or the dispatch is over (45_dispatch R163). -/
theorem rxOk_advance (hs : s.Inv) (hst : s.rx.st = .dispatch) : s.advance.rxOk := by
  obtain ⟨hp, hok, hv, hlen, hidx, hsnap⟩ := (State.rxOk_dispatch hst).mp hs.rx
  by_cases hlast : s.rx.idx + 1 = s.rx.snap.length
  · exact State.rxOk_hunt (if_pos hlast)
  · have hst' : s.advance.rx.st = .dispatch := (if_neg hlast).trans hst
    exact (State.rxOk_dispatch hst').mpr ⟨hp, hok, hv, hlen, lt_of_le_of_ne hidx hlast, hsnap⟩

end

/-! ### The queue's operations, and the dispatch's, keep the invariant -/

/-- A tail insert or a head insert where there is space keeps the bounds of the queue (41_queue R102). -/
theorem State.Inv.queueOk_insert (hs : s.Inv) (hspace : s.hasSpace = true) (hm : m.length ≤ 255) {q : List Message}
    (hq : q.Perm (m :: s.q)) : State.queueOk { s with q := q } := by
  obtain ⟨-, hfits⟩ := hs.queue
  have hlt : s.q.length < s.cfg.qcap := of_decide_eq_true hspace
  exact ⟨hq.length_eq ▸ hlt, fun x hx => (List.mem_cons.mp (hq.mem_iff.mp hx)).elim (fun e => e ▸ hm) (hfits x)⟩

theorem State.Inv.takeMessage (hs : s.Inv) {rest : List Message} (hst : s.tx.st = .take) (hq : s.q = m :: rest) :
    (s.takeMessage m rest).Inv := by
  obtain ⟨hcap, hfits⟩ := hs.queue
  rw [hq] at hcap hfits
  obtain ⟨hm, hrest⟩ := List.forall_mem_cons.mp hfits
  have hon : s.tx.st ≠ .off := by rw [hst]; nofun
  have hdrop : State.Inv { s.consumeAtTake with q := rest } :=
    State.Inv.setQ (s := s.consumeAtTake) (hs.congr rfl) (hs.conn_ne_of_tx_on hon) ⟨(Nat.le_succ _).trans hcap, hrest⟩
  exact hdrop.setTx hon nofun ⟨nofun, fun _ => ⟨m, hm, List.suffix_rfl, rfl⟩⟩

theorem State.Inv.insertAck (hs : s.Inv) (hst : s.rx.st = .ack) (hspace : s.hasSpace = true) : s.insertAck.Inv := by
  have hon : s.rx.st ≠ .off := by rw [hst]; nofun
  have hfront : (s.enqueueFront ackMessage).Inv :=
    hs.setQ (hs.conn_ne_of_rx_on hon) (hs.queueOk_insert hspace (by decide) .rfl)
  exact hfront.setRx hon nofun ((State.rxOk_gate rfl).mpr ((State.rxOk_ack hst).mp hs.rx))
    fun _ => hs.listener (by rw [hst]; nofun)

theorem State.Inv.advance (hs : s.Inv) (hst : s.rx.st = .dispatch) : s.advance.Inv := by
  have hon : s.rx.st ≠ .off := by rw [hst]; nofun
  refine (hs.setLisAns hst none).setRx (r := s.rx.advance) hon ?_ (rxOk_advance (s := s) hs hst) fun _ => rfl
  unfold RxRegs.advance
  split
  · nofun
  · exact hon

end Sys2Proof.Machine
end

section
/-! Settles O12, O13 and O21. An instruction can change the governed registers in few ways, which `Effect` lists: one lemma
finds the effect of each instruction, and each effect keeps the invariant and changes the queue as 41_queue R102 allows. -/

namespace Sys2Proof.Machine

variable {i : Instr} {s t : State} {h : Nat} {c : HostCmd} {m : Message}

/-! ### The effects -/

/-- What an instruction can do to the governed registers: one case for each change an agent makes. -/
inductive Effect (i : Instr) (s t : State) : Prop
  /-- nothing: a hold, an event, the gate, the wire, a deadline -/
  | quiet (ht : t.governed = s.governed)
  /-- a port that does not wait for the completion of a disconnect responds -/
  | responds (h : Nat) (r : Response) (hne : s.cmds[h]? ≠ some (some .disconnect))
      (ht : t.governed = (s.respond h r).governed)
  /-- an idle port holds a command -/
  | holds (h : Nat) (c : HostCmd) (hidle : s.portIdle h = true) (hc : CmdOk s.conn (some c))
      (ht : t.governed = (s.setCmd h c).governed)
  /-- a port inserts its message (41_queue R103, R108) -/
  | inserts (h : Nat) (m : Message) (hne : s.cmds[h]? ≠ some (some .disconnect)) (hconn : s.conn = .connected)
      (hspace : s.hasSpace = true) (hm : m.length ≤ 255) (ht : t.governed = (s.insertAndRespond h m).governed)
  /-- CONNECT (46_host_ops R168) -/
  | connects (h : Nat) (hidle : s.portIdle h = true) (hconn : s.conn = .disconnected)
      (ht : t.governed = (s.connect.respond h okResponse).governed)
  /-- DISCONNECT's initiation (46_host_ops R170) -/
  | closes (h : Nat) (hidle : s.portIdle h = true) (hconn : s.conn = .connected)
      (ht : t.governed = (s.startClosing.setCmd h .disconnect).governed)
  /-- the completion of a disconnect (46_host_ops R171) -/
  | completes (hi : i = .disconnectComplete) (hconn : s.conn = .closing) (hst : s.rx.st = .stopped)
      (ht : t.governed = s.completeDisconnect.governed)
  /-- SUBSCRIBE or UNSUBSCRIBE (45_dispatch R158, R159) -/
  | registers (h : Nat) (reg : List LID) (hidle : s.portIdle h = true) (hd : s.conn = .disconnected → reg = [])
      (hreg : State.registryOk { s with reg := reg })
      (ht : t.governed = (State.respond { s with reg := reg } h okResponse).governed)
  /-- a step of the Transmitter on its own registers -/
  | transmits (r : TxRegs) (hon : s.tx.st ≠ .off) (hr : r.st ≠ .off) (hok : State.txOk { s with tx := r })
      (ht : t.governed = State.governed { s with tx := r })
  /-- the TAKE (43_transmitter R126) -/
  | takes (m : Message) (rest : List Message) (hst : s.tx.st = .take) (hq : s.q = m :: rest)
      (ht : t.governed = (s.takeMessage m rest).governed)
  /-- a step of the Receiver on its own registers -/
  | receives (r : RxRegs LID) (hon : s.rx.st ≠ .off) (hr : r.st ≠ .off) (hok : State.rxOk { s with rx := r })
      (hlis : r.st ≠ .dispatch → s.lisAns = none) (ht : t.governed = State.governed { s with rx := r })
  /-- the PREPEND (44_receiver R147) -/
  | acknowledges (hst : s.rx.st = .ack) (hspace : s.hasSpace = true) (ht : t.governed = s.insertAck.governed)
  /-- the listener's answer (45_dispatch R161, R162) -/
  | notifies (a : ListenerAnswer) (hst : s.rx.st = .dispatch) (ht : t.governed = State.governed { s with lisAns := some a })
  /-- the end of a delivery (45_dispatch R163) -/
  | delivers (hst : s.rx.st = .dispatch) (ht : t.governed = s.advance.governed)

/-- Every effect keeps the invariant. -/
theorem Effect.keeps_inv (hs : s.Inv) (he : Effect i s t) : t.Inv := by
  cases he with
  | quiet ht => exact hs.congr ht
  | responds h r hne ht => exact (hs.respond r hne).congr ht
  | holds h c hidle hc ht => exact (hs.setCmd hidle hc).congr ht
  | inserts h m hne hconn hspace hm ht =>
    have henq : (s.enqueue m).Inv :=
      hs.setQ (by rw [hconn]; nofun) (hs.queueOk_insert hspace hm (List.perm_append_singleton m s.q))
    exact (henq.respond okResponse hne).congr ht
  | connects h hidle hconn ht => exact ((hs.connect hconn).respond _ (ne_disconnect_of_portIdle hidle)).congr ht
  | closes h hidle hconn ht => exact (hs.startClosing_setCmd hconn hidle).congr ht
  | completes hi hconn hst ht => exact (hs.completeDisconnect hconn hst).congr ht
  | registers h reg hidle hd hreg ht =>
    exact ((hs.setReg hd hreg).respond okResponse (ne_disconnect_of_portIdle hidle)).congr ht
  | transmits r hon hr hok ht => exact (hs.setTx hon hr hok).congr ht
  | takes m rest hst hq ht => exact (hs.takeMessage hst hq).congr ht
  | receives r hon hr hok hlis ht => exact (hs.setRx hon hr hok hlis).congr ht
  | acknowledges hst hspace ht => exact (hs.insertAck hst hspace).congr ht
  | notifies a hst ht => exact (hs.setLisAns hst (some a)).congr ht
  | delivers hst ht => exact (hs.advance hst).congr ht

/-! ### The effect of each instruction -/

theorem insertAndRespond_governed {u : State} (hu : u.governed = s.governed) (h : Nat) (m : Message) :
    (u.insertAndRespond h m).governed = (s.insertAndRespond h m).governed := by
  simp only [State.governed, Prod.mk.injEq] at hu ⊢
  simp [hu]

theorem setCmd_governed {u : State} (hu : u.governed = s.governed) (h : Nat) (c : HostCmd) :
    (u.setCmd h c).governed = (s.setCmd h c).governed := by
  simp only [State.governed, Prod.mk.injEq] at hu ⊢
  simp [hu]

/-- The host ports' commands are governed, their deadlines are not. -/
theorem setDeadline_governed (s : State) (h d : Nat) : (s.setDeadline h d).governed = s.governed := by
  simp [State.governed]

theorem consumeSymbol_governed (s : State) : s.consumeSymbol.governed = s.governed := by
  simp [State.governed, State.cmds]

/-- A read by the Receiver: the symbol consumed is not governed. -/
theorem read_governed (s : State) (r : RxRegs LID) :
    State.governed { s.consumeSymbol with rx := r } = State.governed { s with rx := r } := by
  simp [State.governed, State.cmds]

theorem rxGoto_governed {u : State} (hu : u.governed = s.governed) (st : RxSt) :
    (u.rxGoto st).governed = (s.rxGoto st).governed := by
  simp only [State.governed, Prod.mk.injEq] at hu ⊢
  simp [hu]

theorem supply_governed (s : State) (bs : List Byte) : (s.supply bs).governed = s.governed := by
  simp [State.governed, State.cmds]

theorem hold_effect (e : hold s = .next t) : Effect i s t := .quiet (by rw [hold_cases e])

theorem issue_effect {k : State → State} (hk : s.portIdle h = true → Effect i s (k s)) (e : issue h s k = .next t) :
    Effect i s t := by
  rcases issue_cases e with rfl | ⟨hidle, rfl⟩
  · exact .quiet rfl
  · exact hk hidle

theorem respond_effect (hidle : s.portIdle h = true) (r : Response) : Effect i s (s.respond h r) :=
  .responds h r (ne_disconnect_of_portIdle hidle) rfl

theorem refuse_effect (hidle : s.portIdle h = true) (op : BitVec 4) (r : Reason) : Effect i s (s.refuse h op r) :=
  .responds h (refusedResponse r) (ne_disconnect_of_portIdle hidle) rfl

/-- The insert or the hold of a command, whatever deadline was set before it. -/
theorem insertOrHold_effect {u : State} (hu : u.governed = s.governed) (hidle : s.portIdle h = true)
    (hconn : s.conn = .connected) (hm : m.length ≤ 255) (hc : CmdOk s.conn (some c)) :
    Effect i s (u.insertOrHold h m c) := by
  have hspace : u.hasSpace = s.hasSpace := by
    simp only [State.governed, Prod.mk.injEq] at hu
    simp only [State.hasSpace, hu]
  rcases insertOrHold_cases u h m c with ⟨hfree, e⟩ | e <;> rw [e]
  · exact .inserts h m (ne_disconnect_of_portIdle hidle) hconn (hspace ▸ hfree) hm (insertAndRespond_governed hu h m)
  · exact .holds h c hidle hc (setCmd_governed hu h c)

theorem sendChecks_effect {op : BitVec 4} {k : State → State} (hidle : s.portIdle h = true)
    (hk : s.conn = .connected → m.length ≤ 255 → Effect i s (k s)) : Effect i s (s.sendChecks h op m k) := by
  rcases sendChecks_cases s h op m k with ⟨-, e⟩ | ⟨-, -, e⟩ | ⟨hconn, hm, e⟩ <;> rw [e]
  · exact refuse_effect hidle op _
  · exact refuse_effect hidle op _
  · exact hk hconn hm

/-! #### The host commands -/

theorem reservedCommand_effect {op : BitVec 4} (e : reservedCommand h op s = .next t) : Effect i s t :=
  issue_effect (refuse_effect · op _) e

theorem sizeQuery_effect (e : sizeQuery h s = .next t) : Effect i s t := issue_effect (respond_effect · _) e

theorem fullQuery_effect (e : fullQuery h s = .next t) : Effect i s t := issue_effect (respond_effect · _) e

theorem execConnect_effect (e : execConnect h s = .next t) : Effect i s t := by
  refine issue_effect (fun hidle => ?_) e
  split
  · next hconn => exact .connects h hidle hconn rfl
  · exact refuse_effect hidle _ _

theorem execDisconnect_effect (e : execDisconnect h s = .next t) : Effect i s t := by
  refine issue_effect (fun hidle => ?_) e
  split
  · next hconn => exact .closes h hidle hconn rfl
  · exact respond_effect hidle _
  · next hconn => exact .holds h .disconnect hidle (cmdOk_disconnect.mpr hconn) rfl

theorem execSend_effect (e : execSend h m s = .next t) : Effect i s t :=
  issue_effect (fun hidle => sendChecks_effect hidle fun hconn hm =>
    insertOrHold_effect rfl hidle hconn hm (cmdOk_send.mpr hm)) e

theorem execSendTimed_effect {tMs : Nat} (e : execSendTimed h m tMs s = .next t) : Effect i s t :=
  issue_effect (fun hidle => sendChecks_effect hidle fun hconn hm =>
    insertOrHold_effect (setDeadline_governed s h _) hidle hconn hm (cmdOk_sendTimed.mpr hm)) e

theorem execSetClock_effect {year month day hour minute dow : Nat}
    (e : execSetClock h year month day hour minute dow s = .next t) : Effect i s t := by
  refine issue_effect (fun hidle => ?_) e
  split
  · exact sendChecks_effect hidle fun hconn hm => insertOrHold_effect rfl hidle hconn hm (cmdOk_setClock.mpr hm)
  · split
    · exact refuse_effect hidle _ _
    · exact .responds h _ (ne_disconnect_of_portIdle hidle) rfl

theorem execSubscribe_effect {lid : LID} (hs : s.Inv) (e : execSubscribe h lid s = .next t) : Effect i s t := by
  obtain ⟨hnodup, hlmax⟩ := hs.registry
  refine issue_effect (fun hidle => ?_) e
  split
  · exact refuse_effect hidle _ _
  · next hconn =>
    split
    · exact respond_effect hidle _
    · exact refuse_effect hidle _ _
    · next reg hadded =>
      exact .registers h reg hidle (fun hd => absurd (by rw [hd]; nofun) hconn)
        (subscribeTo_keeps hnodup hlmax hadded) rfl

theorem execUnsubscribe_effect {lid : LID} (hs : s.Inv) (e : execUnsubscribe h lid s = .next t) : Effect i s t := by
  obtain ⟨hnodup, hlmax⟩ := hs.registry
  refine issue_effect (fun hidle => .registers h (unsubscribeFrom s.reg lid) hidle (fun hd => ?_) ?_ rfl) e
  · obtain ⟨-, -, -, -, hreg⟩ := (State.connOk_iff_of_eq hd).mp hs.conn
    rw [hreg]
    rfl
  · exact ⟨unsubscribeFrom_keeps hnodup, (List.length_filter_le ..).trans hlmax⟩

/-! #### The held inserts -/

theorem execAppend_effect (hs : s.Inv) (e : execAppend h m s = .next t) : Effect i s t := by
  rcases execAppend_cases e with rfl | ⟨c, hc, hm, hconn, hspace, rfl⟩
  · exact .quiet rfl
  · have hlen : m.length ≤ 255 := length_le_of_appendMsg (hs.cmdOk_of_hostCmd hc) hm
    exact .inserts h m (ne_disconnect_of_hostCmd hc (by rintro rfl; cases hm)) hconn hspace hlen rfl

theorem execAppendTimed_effect {tMs : Nat} (hs : s.Inv) (e : execAppendTimed h m tMs s = .next t) : Effect i s t := by
  rcases execAppendTimed_cases e with rfl | ⟨hc, hconn, ⟨hspace, rfl⟩ | ⟨-, -, rfl⟩⟩
  · exact .quiet rfl
  · exact .inserts h m (ne_disconnect_of_hostCmd hc nofun) hconn hspace
      (cmdOk_sendTimed.mp (hs.cmdOk_of_hostCmd hc)) rfl
  · exact .responds h timeoutResponse (ne_disconnect_of_hostCmd hc nofun) rfl

theorem execInsertRelease_effect {op : InsertOp} (e : execInsertRelease h op s = .next t) : Effect i s t := by
  rcases execInsertRelease_cases e with rfl | ⟨c, hc, hop, -, rfl⟩
  · exact .quiet rfl
  · exact .responds h _ (ne_disconnect_of_hostCmd hc (by rintro rfl; cases hop)) rfl

/-! #### The Transmitter -/

/-- The Transmitter's registers are not read in a state without a deadline and without a frame. -/
theorem txOk_of_idle (hw : s.tx.st ≠ .wait) (hsend : s.tx.st ≠ .send) : s.txOk :=
  ⟨fun h => absurd h hw, fun h => absurd h hsend⟩

theorem takeStep_effect (e : takeStep s = .next t) : Effect i s t := by
  rcases takeStep_cases e with rfl | ⟨m, rest, hst, -, hq, rfl⟩
  · exact .quiet rfl
  · exact .takes m rest hst hq rfl

/-- The Transmitter goes on to TX_TAKE or stops. -/
theorem txGoto_effect {st : TxSt} (hon : s.tx.st ≠ .off) (hst : st = .take ∨ st = .stopped)
    (ht : t.governed = (s.txGoto st).governed) : Effect i s t := by
  rcases hst with rfl | rfl
  · exact .transmits (s.txGoto .take).tx hon nofun (txOk_of_idle nofun nofun) ht
  · exact .transmits (s.txGoto .stopped).tx hon nofun (txOk_of_idle nofun nofun) ht

theorem execTEmit_effect (hs : s.Inv) (e : execTEmit s = .next t) : Effect i s t := by
  rcases execTEmit_cases e with rfl | ⟨b, rest, answers, hst, hframe, -, -, rfl⟩
  · exact .quiet rfl
  · have hon : s.tx.st ≠ .off := by rw [hst]; nofun
    obtain ⟨m, hm, hsuffix, hack⟩ := hs.tx.2 hst
    rw [hframe] at hsuffix
    exact .transmits { s.tx with frame := rest } hon hon
      ⟨hs.tx.1, fun _ => ⟨m, hm, (List.suffix_cons b rest).trans hsuffix, hack⟩⟩ rfl

theorem execTEnd_effect (e : execTEnd s = .next t) : Effect i s t := by
  rcases execTEnd_cases e with rfl | ⟨hst, -, rfl⟩
  · exact .quiet rfl
  · exact .transmits s.endFrame.tx (by rw [hst]; nofun) nofun ⟨fun _ => le_rfl, nofun⟩ rfl

/-! #### The Receiver -/

/-- A step of the Receiver from a state in which it is on and not in a dispatch. -/
theorem rx_effect (hs : s.Inv) (r : RxRegs LID) (hfrom : s.rx.st ≠ .off ∧ s.rx.st ≠ .dispatch) (hr : r.st ≠ .off)
    (hok : State.rxOk { s with rx := r }) (ht : t.governed = State.governed { s with rx := r }) : Effect i s t :=
  .receives r hfrom.1 hr hok (fun _ => hs.listener hfrom.2) ht

/-- The Receiver goes on to hunt, to the length byte, or stops: states in which no register is read. -/
theorem rxGoto_effect (hs : s.Inv) {st : RxSt} (hfrom : s.rx.st ≠ .off ∧ s.rx.st ≠ .dispatch)
    (hst : st = .hunt ∨ st = .len ∨ st = .stopped) (ht : t.governed = (s.rxGoto st).governed) : Effect i s t := by
  rcases hst with rfl | rfl | rfl
  · exact rx_effect hs (s.rxGoto .hunt).rx hfrom nofun trivial ht
  · exact rx_effect hs (s.rxGoto .len).rx hfrom nofun trivial ht
  · exact rx_effect hs (s.rxGoto .stopped).rx hfrom nofun trivial ht

theorem ackInsertStep_effect (e : ackInsertStep s = .next t) : Effect i s t := by
  rcases ackInsertStep_cases e with rfl | ⟨hst, -, hspace, rfl⟩
  · exact .quiet rfl
  · exact .acknowledges hst hspace rfl

theorem ackAbortStep_effect (hs : s.Inv) (e : ackAbortStep s = .next t) : Effect i s t := by
  rcases ackAbortStep_cases e with rfl | ⟨hst, -, -, -, rfl⟩
  · exact .quiet rfl
  · exact rxGoto_effect hs (by rw [hst]; decide) (.inr (.inr rfl)) rfl

theorem cs2Step_effect (hs : s.Inv) (e : cs2Step s = .next t) : Effect i s t := by
  rcases cs2Step_cases e with rfl | ⟨b, hst, -, rfl⟩
  · exact .quiet rfl
  · have hp : s.rx.payloadOk := (State.rxOk_cs2 hst).mp hs.rx
    exact rx_effect hs { s.rx with c2 := b, ok := s.rx.validity b, st := .ack } (by rw [hst]; decide) nofun
      ((State.rxOk_ack rfl).mpr ⟨hp, hp.validity_eq_valid b⟩) (read_governed _ _)

theorem execRLen_effect (hs : s.Inv) (e : execRLen s = .next t) : Effect i s t := by
  rcases execRLen_cases e with rfl | ⟨b, hst, -, rfl⟩
  · exact .quiet rfl
  · refine rx_effect hs (s.rx.startFrame b) (by rw [hst]; decide) ?_ (rxOk_startFrame s b) (read_governed s _)
    unfold RxRegs.startFrame
    split <;> nofun

/-- A payload byte is accepted in RX_DATA by registers that differ from the Receiver's in the escape, which is over, and in
the stuffing error (44_receiver R140, R142, R143). -/
theorem accept_effect (hs : s.Inv) {r : RxRegs LID} (hst : s.rx.st = .data) (hesc : r.esc = false)
    (hrest : { s.rx with esc := r.esc, serr := r.serr } = r) (v : Byte) :
    Effect i s { s.consumeSymbol with rx := r.accept v } := by
  obtain ⟨hlt, hsums⟩ := (State.rxOk_data hst).mp hs.rx
  refine rx_effect hs (r.accept v) (by rw [hst]; decide) ?_
    (rxOk_accept s hesc (by rw [← hrest]; exact hlt) (by rw [← hrest]; exact hsums) v) (read_governed s _)
  unfold RxRegs.accept
  split <;> nofun

theorem execRDataEsc_effect (hs : s.Inv) (e : execRDataEsc s = .next t) : Effect i s t := by
  rcases execRDataEsc_cases e with rfl | ⟨hst, -, -, rfl⟩
  · exact .quiet rfl
  · exact rx_effect hs { s.rx with esc := true } (by rw [hst]; decide) (hst ▸ nofun)
      ((State.rxOk_data (s := { s with rx := { s.rx with esc := true } }) hst).mpr ((State.rxOk_data hst).mp hs.rx))
      (read_governed s _)

theorem execRCs1_effect (hs : s.Inv) (e : execRCs1 s = .next t) : Effect i s t := by
  rcases execRCs1_cases e with rfl | ⟨b, hst, -, rfl⟩
  · exact .quiet rfl
  · exact rx_effect hs { s.rx with c1 := b, st := .cs2 } (by rw [hst]; decide) nofun
      ((State.rxOk_cs2 rfl).mpr ((State.rxOk_cs1 hst).mp hs.rx)) (read_governed s _)

theorem execRAckNone_effect (hs : s.Inv) (e : execRAckNone s = .next t) : Effect i s t := by
  rcases execRAckNone_cases e with rfl | ⟨hst, -, rfl⟩
  · exact .quiet rfl
  · exact rx_effect hs (s.rxGoto .gate).rx (by rw [hst]; decide) nofun
      ((State.rxOk_gate rfl).mpr ((State.rxOk_ack hst).mp hs.rx)) rfl

theorem execRGate_effect (hs : s.Inv) (e : execRGate s = .next t) : Effect i s t := by
  rcases execRGate_cases e with rfl | ⟨hst, hgate⟩
  · exact .quiet rfl
  · have hfrom : s.rx.st ≠ .off ∧ s.rx.st ≠ .dispatch := by rw [hst]; decide
    rcases hgate with ⟨hok, hlen, rfl⟩ | ⟨-, rfl⟩
    · refine rx_effect hs (s.rx.startDispatch s.reg) hfrom ?_ (rxOk_startDispatch hs hst hok hlen) rfl
      unfold RxRegs.startDispatch
      split <;> nofun
    · exact rxGoto_effect hs hfrom (.inl rfl) rfl

theorem execRClose_effect (hs : s.Inv) (e : execRClose s = .next t) : Effect i s t := by
  rcases execRClose_cases e with rfl | ⟨r, hreading, rfl, -⟩
  · exact .quiet rfl
  · have hfrom : s.rx.st ≠ .off ∧ s.rx.st ≠ .dispatch := by
      constructor <;> intro hst <;> rw [hst] at hreading <;> cases hreading
    exact rxGoto_effect hs hfrom (.inr (.inr rfl))
      (rxGoto_governed (u := s.consumeSymbol.raise _) (consumeSymbol_governed s) _)

/-! #### Every instruction -/

/-- Every instruction has one of the effects. -/
theorem exec_effect (hs : s.Inv) (e : exec i s = .next t) : Effect i s t := by
  cases i with
  | reserved0 | reservedA | reservedB | reservedC | reservedD | reservedE | reservedF => exact reservedCommand_effect e
  | connect => exact execConnect_effect e
  | disconnect => exact execDisconnect_effect e
  | send => exact execSend_effect e
  | sendTimed => exact execSendTimed_effect e
  | subscribe => exact execSubscribe_effect hs e
  | unsubscribe => exact execUnsubscribe_effect hs e
  | setClock => exact execSetClock_effect e
  | querySize | size => exact sizeQuery_effect e
  | queryFull | isFull => exact fullQuery_effect e
  | append => exact execAppend_effect hs e
  | appendTimed => exact execAppendTimed_effect hs e
  | prepend =>
    rcases execPrepend_cases e with rfl | ⟨-, e⟩
    · exact .quiet rfl
    · exact ackInsertStep_effect e
  | take | tTake => exact takeStep_effect e
  | flag | escape | esc7E | esc7D | escIllegal | frame =>
    cases e
    exact .quiet (supply_governed s _)
  | ackreq =>
    rcases execAckreq_cases e with rfl | e | e
    · exact .quiet rfl
    · exact ackInsertStep_effect e
    · exact ackAbortStep_effect hs e
  | typeBareAck =>
    rcases execTypeBareAck_cases e with rfl | ⟨-, e⟩
    · exact .quiet rfl
    · exact takeStep_effect e
  | typeExempt =>
    rcases execTypeExempt_cases e with rfl | ⟨-, e⟩
    · exact .quiet rfl
    · exact cs2Step_effect hs e
  | notify lid a =>
    rcases execNotify_cases e with rfl | ⟨n, hoffer, -, -, rfl⟩
    · exact .quiet rfl
    · exact .notifies a (offer_some hoffer).1 rfl
  | tReady =>
    rcases execTReady_cases e with rfl | ⟨hst, -, -, rfl⟩
    · exact .quiet rfl
    · exact txGoto_effect (by rw [hst]; nofun) (.inl rfl) rfl
  | tTimeout =>
    rcases execTTimeout_cases e with rfl | ⟨hst, -, -, -, rfl⟩
    · exact .quiet rfl
    · exact txGoto_effect (by rw [hst]; nofun) (.inl rfl) rfl
  | tCancel =>
    rcases execTCancel_cases e with rfl | ⟨hst, -, rfl⟩
    · exact .quiet rfl
    · exact txGoto_effect (by rcases hst with hst | hst <;> rw [hst] <;> nofun) (.inr rfl) rfl
  | tEmit => exact execTEmit_effect hs e
  | tWrerr =>
    rcases execTWrerr_cases e with rfl | ⟨hst, -, -, rfl⟩ | ⟨answers, hst, -, -, -, rfl⟩
    · exact .quiet rfl
    · exact txGoto_effect (by rw [hst]; nofun) (.inr rfl) rfl
    · exact txGoto_effect (by rw [hst]; nofun) (.inr rfl) rfl
  | tEnd => exact execTEnd_effect e
  | rHuntSkip =>
    rcases execRHuntSkip_cases e with rfl | ⟨b, -, -, -, rfl⟩
    · exact .quiet rfl
    · exact .quiet (consumeSymbol_governed s)
  | rHuntFlag =>
    rcases execRHuntFlag_cases e with rfl | ⟨hst, -, rfl⟩
    · exact .quiet rfl
    · exact rxGoto_effect hs (by rw [hst]; decide) (.inr (.inl rfl))
        (rxGoto_governed (consumeSymbol_governed s) _)
  | rLen => exact execRLen_effect hs e
  | rDataPlain =>
    rcases execRDataPlain_cases e with rfl | ⟨b, hst, hesc, -, -, rfl⟩
    · exact .quiet rfl
    · exact accept_effect hs hst hesc rfl b
  | rDataEsc => exact execRDataEsc_effect hs e
  | rEscOk =>
    rcases execREscOk_cases e with rfl | ⟨b, hst, -, -, -, rfl⟩
    · exact .quiet rfl
    · exact accept_effect hs hst rfl rfl _
  | rEscBad =>
    rcases execREscBad_cases e with rfl | ⟨b, hst, -, -, -, rfl⟩
    · exact .quiet rfl
    · exact accept_effect hs hst rfl rfl _
  | rCs1 => exact execRCs1_effect hs e
  | rCs2 => exact cs2Step_effect hs e
  | rAckInsert => exact ackInsertStep_effect e
  | rAckHold => exact hold_effect e
  | rAckAbort => exact ackAbortStep_effect hs e
  | rAckNone => exact execRAckNone_effect hs e
  | rGate => exact execRGate_effect hs e
  | rDeliverOk =>
    rcases execRDeliverOk_cases e with rfl | ⟨n, hoffer, -, rfl⟩
    · exact .quiet rfl
    · exact .delivers (offer_some hoffer).1 rfl
  | rDeliverFault =>
    rcases execRDeliverFault_cases e with rfl | ⟨n, hoffer, -, rfl⟩
    · exact .quiet rfl
    · exact .delivers (offer_some hoffer).1 rfl
  | rClose => exact execRClose_effect hs e
  | disconnectComplete =>
    rcases execDisconnectComplete_cases e with rfl | ⟨hconn, -, hst, rfl⟩
    · exact .quiet rfl
    · exact .completes rfl hconn hst rfl
  | insertRelease => exact execInsertRelease_effect e

/-! ### The statements -/

/-- The environment's own steps change the clock, or what is ready on the wire. -/
theorem step_keeps_inv (hs : s.Inv) (e : step s = .next t) : t.Inv := by
  have hf : s.fetched.Inv := hs.congr (by simp [State.governed, State.cmds])
  have hstep : step s = step (s.fetched.choosing s.fetch) := rfl
  rw [hstep] at e
  rcases step_choosing_cases e with
    ⟨split, p, i, -, -, e⟩ | ⟨ms, -, rfl⟩ | ⟨xs, -, rfl⟩ | ⟨-, rfl⟩ | ⟨answers, -, rfl⟩ | ⟨-, rfl⟩
  · have hi : (s.fetched.withSplit split).Inv := hf.congr rfl
    exact (exec_effect hi e).keeps_inv hi
  · exact hf.tick ms
  · exact hf.congr (by simp [State.governed, State.cmds])
  · exact hf.congr rfl
  · exact hf.congr (by simp [State.governed, State.cmds])
  · exact hf.congr rfl

/-- Settles O13: each instruction has one of the effects, and each effect keeps the invariant. -/
theorem stepKeepsInv : Obligations.StepKeepsInv := fun _ _ hs e => step_keeps_inv hs e

/-- Settles O21: the effect of the instruction says how the queue changes. CONNECT empties it where the invariant says it is
empty. -/
theorem queueChangesOnly : Obligations.QueueChangesOnly := by
  intro i s t hs e
  cases exec_effect hs e with
  | quiet ht | responds h r hne ht | holds h c hidle hc ht | closes h hidle hconn ht | registers h reg hidle hd hreg ht
  | transmits r hon hr hok ht | receives r hon hr hok hlis ht | notifies a hst ht | delivers hst ht =>
    have hq := governed_q ht
    exact .inl hq
  | connects h hidle hconn ht =>
    obtain ⟨-, -, -, hq, -⟩ := (State.connOk_iff_of_eq hconn).mp hs.conn
    exact .inl ((governed_q ht).trans hq.symm)
  | inserts h m hne hconn hspace hm ht => exact .inr (.inl ⟨m, governed_q ht, of_decide_eq_true hspace⟩)
  | acknowledges hst hspace ht => exact .inr (.inr (.inl ⟨governed_q ht, of_decide_eq_true hspace, hst⟩))
  | takes m rest hst hq ht =>
    have htx : t.tx = (s.takeMessage m rest).tx := governed_tx ht
    exact .inr (.inr (.inr (.inl ⟨m, by rw [hq, governed_q ht]; rfl, hst, by rw [htx]; rfl, by rw [htx]; rfl⟩)))
  | completes hi hconn hst ht => exact .inr (.inr (.inr (.inr ⟨governed_q ht, hi⟩)))

/-- Settles O12: nothing is queued, registered, sent, read or held at power-on, for any legal configuration. -/
theorem powerOnMeetsInv : Obligations.PowerOnMeetsInv := by
  have hpower : ∀ (c : Params) (now : Nat), c.legal → (State.powerOn c now).Inv := fun c now hc =>
    { config := hc
      queue := ⟨Nat.zero_le _, nofun⟩
      registry := ⟨List.nodup_nil, Nat.zero_le _⟩
      conn := ⟨rfl, rfl, rfl, rfl, rfl⟩
      tx := ⟨nofun, nofun⟩
      rx := trivial
      host := ⟨List.length_replicate, fun p hp => List.eq_of_mem_replicate hp ▸ trivial, nofun⟩
      listener := fun _ => rfl }
  exact ⟨hpower, hpower Params.standard 0 (by decide)⟩

end Sys2Proof.Machine
end

section
/-! Settles O26, O28 and O32 (41_queue R103, R106 to R108; 46_host_ops R180, R181). The conditions of APPEND and APPEND_TIMED
are read off the port's command, and what they then do is said with the port's registers. -/

namespace Sys2Proof.Machine

variable {s : State} {h tMs : Nat} {p : HostPort} {c : HostCmd} {m : Message}

theorem hasSpace_of_lt (hq : s.q.length < s.cfg.qcap) : s.hasSpace = true := decide_eq_true hq

theorem hasSpace_of_le (hq : s.cfg.qcap ≤ s.q.length) : s.hasSpace = false := decide_eq_false (Nat.not_lt.mpr hq)

theorem hostCmd_of_cmd (hp : s.host[h]? = some p) (hc : p.cmd = some c) : s.hostCmd h = some c := (hostCmd_of hp).trans hc

/-! ### APPEND (R103) -/

theorem execAppend_eq_if (hc : s.hostCmd h = some c) (hm : c.appendMsg? = some m) :
    execAppend h m s =
      if s.conn = .connected ∧ s.hasSpace = true then .next (s.insertAndRespond h m) else hold s := by
  simp only [execAppend, hc, hm, true_and]

/-- Settles O26: the message is the one the port is held with, so the space in the queue decides. -/
theorem appendInsertsHeldMessage : Obligations.AppendInsertsHeldMessage := by
  intro s h p m hp hcmd
  obtain ⟨c, hc, hm⟩ : ∃ c, p.cmd = some c ∧ c.appendMsg? = some m :=
    hcmd.elim (fun hc => ⟨_, hc, rfl⟩) fun hc => ⟨_, hc, rfl⟩
  have happend := execAppend_eq_if (hostCmd_of_cmd hp hc) hm
  refine ⟨fun hconn hq => ?insert, fun hq => ?full⟩
  case insert => exact happend.trans ((if_pos ⟨hconn, hasSpace_of_lt hq⟩).trans (by rw [insertAndRespond_eq hp]))
  case full => exact happend.trans (if_neg fun hfree => by simp [hasSpace_of_le hq] at hfree)

/-! ### APPEND_TIMED (R108) -/

theorem execAppendTimed_eq_if (hc : s.hostCmd h = some (.sendTimed m tMs)) (hconn : s.conn = .connected) :
    execAppendTimed h m tMs s =
      if s.hasSpace then .next (s.insertAndRespond h m)
      else if s.statQfull = true ∧ s.hostDeadline h ≤ s.now then
        .next ((s.respond h timeoutResponse).raise [.deliveryFailure h 0x4])
      else hold s := if_pos ⟨hc, hconn⟩

/-- In a full queue the deadline decides. -/
theorem execAppendTimed_eq_if_of_full (hc : s.hostCmd h = some (.sendTimed m tMs)) (hconn : s.conn = .connected)
    (hfull : s.q.length = s.cfg.qcap) :
    execAppendTimed h m tMs s =
      if s.hostDeadline h ≤ s.now then .next ((s.respond h timeoutResponse).raise [.deliveryFailure h 0x4])
      else hold s := by
  rw [execAppendTimed_eq_if hc hconn, hasSpace_of_full hfull, State.statQfull, decide_eq_true hfull]
  simp only [Bool.false_eq_true, if_false, true_and]

/-- Settles O28: where there is space the deadline is not read; in a full queue it decides between the timeout and the
hold. -/
theorem appendTimedInsertsOrTimesOut : Obligations.AppendTimedInsertsOrTimesOut := by
  intro s h tMs p m hp hcmd hconn
  have hc := hostCmd_of_cmd hp hcmd
  refine ⟨fun hq => ?insert, fun hfull hdue => ?timeout, fun hfull hearly => ?hold⟩
  case insert =>
    exact (execAppendTimed_eq_if hc hconn).trans ((if_pos (hasSpace_of_lt hq)).trans (by rw [insertAndRespond_eq hp]))
  case timeout =>
    rw [← hostDeadline_of hp] at hdue
    exact (execAppendTimed_eq_if_of_full hc hconn hfull).trans ((if_pos hdue).trans (by rw [respond_eq hp]; rfl))
  case hold =>
    rw [← hostDeadline_of hp] at hearly
    exact (execAppendTimed_eq_if_of_full hc hconn hfull).trans (if_neg (Nat.not_le.mpr hearly))

/-! ### The queries (R106, R107) -/

theorem sizeQuery_answers (hi : s.idleAt h p) :
    sizeQuery h s = .next (s.answered h p .ok .none (some (.size s.q.length))) := by
  rw [sizeQuery, issue_idle (idle_port hi), respond_eq hi.1]
  rfl

theorem fullQuery_answers (hi : s.idleAt h p) :
    fullQuery h s = .next (s.answered h p .ok .none (some (.full (decide (s.q.length = s.cfg.qcap))))) := by
  rw [fullQuery, issue_idle (idle_port hi), respond_eq hi.1]
  rfl

/-- Settles O32: both rows of a query are the same step. -/
theorem queriesAnswer : Obligations.QueriesAnswer := by
  intro s h p hi
  exact ⟨List.forall_mem_cons.mpr ⟨sizeQuery_answers hi, List.forall_mem_singleton.mpr (sizeQuery_answers hi)⟩,
    List.forall_mem_cons.mpr ⟨fullQuery_answers hi, List.forall_mem_singleton.mpr (fullQuery_answers hi)⟩⟩

end Sys2Proof.Machine
end

section
/-! Settles O20 (42_gate R114, R119). Every instruction keeps the gate, or is one of its writers: three set it, two clear it. -/

namespace Sys2Proof.Machine

variable {s t : State} {i : Instr} {h : Nat} {k : State → State}

/-- What one instruction does to the gate (42_gate R114, R119). -/
inductive GateEffect (i : Instr) (s t : State) : Prop
  | kept (hgate : t.gate = s.gate)
  | frameRead (hi : i = .rGate) (hgate : t.gate = true)
  | ackSent (hi : i = .tEnd) (hack : s.tx.isAck = true) (hgate : t.gate = true)
  | connected (hi : ∃ h, i = .connect h) (hgate : t.gate = true)
  | waitExited (hi : i = .tReady) (hconsume : s.cfg.gateConsume = .atWaitExit) (hgate : t.gate = false)
  | taken (hconsume : s.cfg.gateConsume = .atTake) (hst : s.tx.st = .take)
      (hi : i = .tTake ∨ i = .take ∨ ∃ a r, i = .typeBareAck a r) (hgate : t.gate = false)

/-! ### The writers -/

theorem execRGate_sets_gate (e : execRGate s = .next t) : t = s ∨ t.gate = true := by
  rcases execRGate_cases e with rfl | ⟨-, ⟨-, -, rfl⟩ | ⟨-, rfl⟩⟩
  · exact .inl rfl
  · exact .inr rfl
  · exact .inr rfl

/-- T_END sets the gate at the end of a bare acknowledgment only (43_transmitter R129). -/
theorem execTEnd_gate (e : execTEnd s = .next t) : t.gate = s.gate ∨ s.tx.isAck = true ∧ t.gate = true := by
  rcases execTEnd_cases e with rfl | ⟨-, -, rfl⟩
  · exact .inl rfl
  · cases hack : s.tx.isAck with
    | false => exact .inl (by simp [hack])
    | true => exact .inr ⟨rfl, by simp [hack]⟩

theorem execConnect_gate (e : execConnect h s = .next t) : t.gate = s.gate ∨ t.gate = true := by
  rcases issue_cases e with rfl | ⟨-, rfl⟩
  · exact .inl rfl
  · split
    · exact .inr rfl
    · exact .inl rfl

/-- T_READY consumes the gate where P_GATE_CONSUME names the end of the wait (42_gate R117, R119). -/
theorem execTReady_gate (e : execTReady s = .next t) :
    t.gate = s.gate ∨ s.cfg.gateConsume = .atWaitExit ∧ t.gate = false := by
  rcases execTReady_cases e with rfl | ⟨-, -, -, rfl⟩
  · exact .inl rfl
  · by_cases hconsume : s.cfg.gateConsume = .atWaitExit
    · exact .inr ⟨hconsume, by simp [hconsume]⟩
    · exact .inl (by simp [hconsume])

/-- The TAKE step consumes the gate where P_GATE_CONSUME names it (42_gate R119). -/
theorem takeStep_gate (e : takeStep s = .next t) :
    t.gate = s.gate ∨ s.cfg.gateConsume = .atTake ∧ s.tx.st = .take ∧ t.gate = false := by
  rcases takeStep_cases e with rfl | ⟨m, rest, hst, -, -, rfl⟩
  · exact .inl rfl
  · by_cases hconsume : s.cfg.gateConsume = .atTake
    · exact .inr ⟨hconsume, hst, by simp [hconsume]⟩
    · exact .inl (by simp [hconsume])

/-- The rows of the TAKE step. -/
theorem takeStep_gateEffect (hi : i = .tTake ∨ i = .take ∨ ∃ a r, i = .typeBareAck a r) (e : takeStep s = .next t) :
    GateEffect i s t := by
  rcases takeStep_gate e with hgate | ⟨hconsume, hst, hgate⟩
  · exact .kept hgate
  · exact .taken hconsume hst hi hgate

/-! ### The host commands that leave the gate -/

@[simp] theorem insertOrHold_gate (s : State) (h : Nat) (m : Message) (c : HostCmd) :
    (s.insertOrHold h m c).gate = s.gate := by
  rcases insertOrHold_cases s h m c with ⟨-, hc⟩ | hc <;> simp [hc]

theorem sendChecks_gate {op : BitVec 4} {m : Message} (hk : (k s).gate = s.gate) :
    (s.sendChecks h op m k).gate = s.gate := by
  rcases sendChecks_cases s h op m k with ⟨-, hc⟩ | ⟨-, -, hc⟩ | ⟨-, -, hc⟩ <;> simp [hc, hk]

@[simp] theorem sendIssue_gate (s : State) (h : Nat) (op : BitVec 4) (m : Message) (c : HostCmd) :
    (s.sendIssue h op m c).gate = s.gate := sendChecks_gate (insertOrHold_gate s h m c)

theorem issue_keeps_gate (hk : (k s).gate = s.gate) (e : issue h s k = .next t) : t.gate = s.gate := by
  rcases issue_cases e with rfl | ⟨-, rfl⟩
  · rfl
  · exact hk

theorem reservedCommand_keeps_gate {op : BitVec 4} (e : reservedCommand h op s = .next t) : t.gate = s.gate :=
  issue_keeps_gate (State.refuse_gate ..) e

theorem sizeQuery_keeps_gate (e : sizeQuery h s = .next t) : t.gate = s.gate :=
  issue_keeps_gate (State.respond_gate ..) e

theorem fullQuery_keeps_gate (e : fullQuery h s = .next t) : t.gate = s.gate :=
  issue_keeps_gate (State.respond_gate ..) e

/-- DISCONNECT does not clear the gate: the Transmitter alone does (42_gate R114). -/
theorem execDisconnect_keeps_gate (e : execDisconnect h s = .next t) : t.gate = s.gate := by
  refine issue_keeps_gate ?_ e
  split <;> simp

theorem execSend_keeps_gate {m : Message} (e : execSend h m s = .next t) : t.gate = s.gate :=
  issue_keeps_gate (sendIssue_gate ..) e

theorem execSendTimed_keeps_gate {m : Message} {tMs : Nat} (e : execSendTimed h m tMs s = .next t) :
    t.gate = s.gate := issue_keeps_gate (sendChecks_gate (by simp)) e

theorem execUnsubscribe_keeps_gate {lid : LID} (e : execUnsubscribe h lid s = .next t) : t.gate = s.gate :=
  issue_keeps_gate (by simp) e

theorem execSubscribe_keeps_gate {lid : LID} (e : execSubscribe h lid s = .next t) : t.gate = s.gate := by
  refine issue_keeps_gate ?_ e
  split
  · simp
  · split <;> simp

theorem execSetClock_keeps_gate {year month day hour minute dow : Nat}
    (e : execSetClock h year month day hour minute dow s = .next t) : t.gate = s.gate := by
  refine issue_keeps_gate ?_ e
  split
  · simp
  · split <;> simp

/-! ### The steps of several rows that leave the gate -/

theorem ackInsertStep_keeps_gate (e : ackInsertStep s = .next t) : t.gate = s.gate := by
  rcases ackInsertStep_cases e with rfl | ⟨-, -, -, rfl⟩ <;> simp

theorem ackAbortStep_keeps_gate (e : ackAbortStep s = .next t) : t.gate = s.gate := by
  rcases ackAbortStep_cases e with rfl | ⟨-, -, -, -, rfl⟩ <;> simp

theorem cs2Step_keeps_gate (e : cs2Step s = .next t) : t.gate = s.gate := by
  rcases cs2Step_cases e with rfl | ⟨b, -, -, rfl⟩ <;> simp

/-! ### Every instruction -/

/-- Every instruction has one of the effects: the writers by their lemmas, every other keeps the gate. -/
theorem exec_gateEffect (e : exec i s = .next t) : GateEffect i s t := by
  cases i with
  | rGate =>
    rcases execRGate_sets_gate e with rfl | hgate
    · exact .kept rfl
    · exact .frameRead rfl hgate
  | tEnd =>
    rcases execTEnd_gate e with hgate | ⟨hack, hgate⟩
    · exact .kept hgate
    · exact .ackSent rfl hack hgate
  | connect h =>
    rcases execConnect_gate e with hgate | hgate
    · exact .kept hgate
    · exact .connected ⟨h, rfl⟩ hgate
  | tReady =>
    rcases execTReady_gate e with hgate | ⟨hconsume, hgate⟩
    · exact .kept hgate
    · exact .waitExited rfl hconsume hgate
  | tTake => exact takeStep_gateEffect (.inl rfl) e
  | take => exact takeStep_gateEffect (.inr (.inl rfl)) e
  | typeBareAck a r =>
    rcases execTypeBareAck_cases e with rfl | ⟨-, e⟩
    · exact .kept rfl
    · exact takeStep_gateEffect (.inr (.inr ⟨a, r, rfl⟩)) e
  | reserved0 | reservedA | reservedB | reservedC | reservedD | reservedE | reservedF =>
    exact .kept (reservedCommand_keeps_gate e)
  | disconnect => exact .kept (execDisconnect_keeps_gate e)
  | send => exact .kept (execSend_keeps_gate e)
  | sendTimed => exact .kept (execSendTimed_keeps_gate e)
  | subscribe => exact .kept (execSubscribe_keeps_gate e)
  | unsubscribe => exact .kept (execUnsubscribe_keeps_gate e)
  | setClock => exact .kept (execSetClock_keeps_gate e)
  | querySize | size => exact .kept (sizeQuery_keeps_gate e)
  | queryFull | isFull => exact .kept (fullQuery_keeps_gate e)
  | append => rcases execAppend_cases e with rfl | ⟨c, -, -, -, -, rfl⟩ <;> exact .kept (by simp)
  | appendTimed =>
    rcases execAppendTimed_cases e with rfl | ⟨-, -, ⟨-, rfl⟩ | ⟨-, -, rfl⟩⟩ <;> exact .kept (by simp)
  | prepend =>
    rcases execPrepend_cases e with rfl | ⟨-, e⟩
    · exact .kept rfl
    · exact .kept (ackInsertStep_keeps_gate e)
  | flag | escape | esc7E | esc7D | escIllegal | frame =>
    cases e
    exact .kept (State.supply_gate ..)
  | ackreq =>
    rcases execAckreq_cases e with rfl | e | e
    · exact .kept rfl
    · exact .kept (ackInsertStep_keeps_gate e)
    · exact .kept (ackAbortStep_keeps_gate e)
  | typeExempt =>
    rcases execTypeExempt_cases e with rfl | ⟨-, e⟩
    · exact .kept rfl
    · exact .kept (cs2Step_keeps_gate e)
  | notify => rcases execNotify_cases e with rfl | ⟨n, -, -, -, rfl⟩ <;> exact .kept rfl
  | tTimeout => rcases execTTimeout_cases e with rfl | ⟨-, -, -, -, rfl⟩ <;> exact .kept rfl
  | tCancel => rcases execTCancel_cases e with rfl | ⟨-, -, rfl⟩ <;> exact .kept rfl
  | tEmit => rcases execTEmit_cases e with rfl | ⟨b, rest, answers, -, -, -, -, rfl⟩ <;> exact .kept rfl
  | tWrerr =>
    rcases execTWrerr_cases e with rfl | ⟨-, -, -, rfl⟩ | ⟨answers, -, -, -, -, rfl⟩ <;> exact .kept rfl
  | rHuntSkip => rcases execRHuntSkip_cases e with rfl | ⟨b, -, -, -, rfl⟩ <;> exact .kept (by simp)
  | rHuntFlag => rcases execRHuntFlag_cases e with rfl | ⟨-, -, rfl⟩ <;> exact .kept (by simp)
  | rLen => rcases execRLen_cases e with rfl | ⟨b, -, -, rfl⟩ <;> exact .kept (by simp)
  | rDataPlain => rcases execRDataPlain_cases e with rfl | ⟨b, -, -, -, -, rfl⟩ <;> exact .kept (by simp)
  | rDataEsc => rcases execRDataEsc_cases e with rfl | ⟨-, -, -, rfl⟩ <;> exact .kept (by simp)
  | rEscOk => rcases execREscOk_cases e with rfl | ⟨b, -, -, -, -, rfl⟩ <;> exact .kept (by simp)
  | rEscBad => rcases execREscBad_cases e with rfl | ⟨b, -, -, -, -, rfl⟩ <;> exact .kept (by simp)
  | rCs1 => rcases execRCs1_cases e with rfl | ⟨b, -, -, rfl⟩ <;> exact .kept (by simp)
  | rCs2 => exact .kept (cs2Step_keeps_gate e)
  | rAckInsert => exact .kept (ackInsertStep_keeps_gate e)
  | rAckHold => exact .kept (by rw [hold_cases e])
  | rAckAbort => exact .kept (ackAbortStep_keeps_gate e)
  | rAckNone => rcases execRAckNone_cases e with rfl | ⟨-, -, rfl⟩ <;> exact .kept rfl
  | rDeliverOk => rcases execRDeliverOk_cases e with rfl | ⟨n, -, -, rfl⟩ <;> exact .kept rfl
  | rDeliverFault => rcases execRDeliverFault_cases e with rfl | ⟨n, -, -, rfl⟩ <;> exact .kept rfl
  | rClose => rcases execRClose_cases e with rfl | ⟨r, -, rfl, -⟩ <;> exact .kept (by simp)
  | disconnectComplete => rcases execDisconnectComplete_cases e with rfl | ⟨-, -, -, rfl⟩ <;> exact .kept rfl
  | insertRelease => rcases execInsertRelease_cases e with rfl | ⟨c, -, -, -, rfl⟩ <;> exact .kept (by simp)

/-- Settles O20: the effect of the instruction on the gate names its writer; a kept gate goes neither way. -/
theorem gateWriters : Obligations.GateWriters := by
  intro i s t e
  cases exec_gateEffect e with
  | kept hgate =>
    exact ⟨fun hclear hset => absurd (hset.symm.trans (hgate.trans hclear)) nofun,
      fun hset hclear => absurd (hset.symm.trans (hgate.symm.trans hclear)) nofun⟩
  | frameRead hi hgate => exact ⟨fun _ _ => .inl hi, fun _ hclear => absurd (hgate.symm.trans hclear) nofun⟩
  | ackSent hi hack hgate =>
    exact ⟨fun _ _ => .inr (.inl ⟨hi, hack⟩), fun _ hclear => absurd (hgate.symm.trans hclear) nofun⟩
  | connected hi hgate => exact ⟨fun _ _ => .inr (.inr hi), fun _ hclear => absurd (hgate.symm.trans hclear) nofun⟩
  | waitExited hi hconsume hgate =>
    exact ⟨fun _ hset => absurd (hgate.symm.trans hset) nofun, fun _ _ => .inl ⟨hi, hconsume⟩⟩
  | taken hconsume hst hi hgate =>
    exact ⟨fun _ hset => absurd (hgate.symm.trans hset) nofun, fun _ _ => .inr ⟨hconsume, hst, hi⟩⟩

end Sys2Proof.Machine
end

section
/-! Settles O35 to O41 (43_transmitter R123 to R134). One equation per step of the Transmitter where it is enabled, and one
where it holds; a statement about a step is its equation, and the sending of a frame is their chain. -/

namespace Sys2Proof.Machine

variable {s : State} {m : Message} {rest : List Message} {b : Byte} {bytes : List Byte} {answers : List SinkAnswer}

/-! ### The wait states (R123 to R126) -/

theorem exec_tReady_of_gate (hst : s.tx.st = .wait) (hcancel : s.cancel = false) (hgate : s.gate = true) :
    exec .tReady s = .next (s.consumeAtWaitExit.txGoto .take) := if_pos ⟨hst, hcancel, hgate⟩

theorem exec_tReady_no_gate (hgate : s.gate = false) : exec .tReady s = .next s :=
  if_neg fun ⟨_, _, h⟩ => Bool.false_ne_true (hgate.symm.trans h)

theorem exec_tReady_cancelled (hcancel : s.cancel = true) : exec .tReady s = .next s :=
  if_neg fun ⟨_, h, _⟩ => Bool.false_ne_true (h.symm.trans hcancel)

theorem exec_tTimeout_of_deadline (hst : s.tx.st = .wait) (hcancel : s.cancel = false) (hgate : s.gate = false)
    (hdeadline : s.tx.deadline ≤ s.now) : exec .tTimeout s = .next ((s.raise [.gateTimeout]).txGoto .take) :=
  if_pos ⟨hst, hcancel, hgate, hdeadline⟩

theorem exec_tTimeout_early (hdeadline : s.now < s.tx.deadline) : exec .tTimeout s = .next s :=
  if_neg fun ⟨_, _, _, h⟩ => Nat.not_le_of_lt hdeadline h

theorem exec_tTimeout_cancelled (hcancel : s.cancel = true) : exec .tTimeout s = .next s :=
  if_neg fun ⟨_, h, _⟩ => Bool.false_ne_true (h.symm.trans hcancel)

theorem exec_tCancel_cancelled (hst : s.tx.st = .wait ∨ s.tx.st = .take) (hcancel : s.cancel = true) :
    exec .tCancel s = .next (s.txStop .cancelled) := if_pos ⟨hst, hcancel⟩

theorem exec_tCancel_sending (hst : s.tx.st = .send) : exec .tCancel s = .next s :=
  if_neg fun ⟨h, _⟩ => by simp [hst] at h

theorem exec_tCancel_not_cancelled (hcancel : s.cancel = false) : exec .tCancel s = .next s :=
  if_neg fun ⟨_, h⟩ => Bool.false_ne_true (hcancel.symm.trans h)

theorem takeStep_cancelled (hcancel : s.cancel = true) : takeStep s = .next s := by
  unfold takeStep
  split
  · next h _ => cases h.symm.trans hcancel
  · rfl

/-- The consume point named by P_GATE_CONSUME, for a gate that is true (42_gate R119). -/
theorem consumeAtWaitExit_of_gate (hgate : s.gate = true) :
    s.consumeAtWaitExit =
      { s with gate := (match s.cfg.gateConsume with | .atWaitExit => false | .atTake => true) } := by
  rw [State.consumeAtWaitExit, hgate]
  cases s.cfg.gateConsume <;> rfl

theorem consumeAtTake_eq (s : State) :
    s.consumeAtTake =
      { s with gate := (match s.cfg.gateConsume with | .atWaitExit => s.gate | .atTake => false) } := by
  rw [State.consumeAtTake]
  cases s.cfg.gateConsume <;> rfl

theorem isBareAck_iff : isBareAck m = true ↔ ∃ b t, m = b :: t ∧ b &&& 0x3F = 0x1D := by
  cases m with
  | nil => simp [isBareAck]
  | cons b t =>
    have hhead : isBareAck (b :: t) = true ↔ b &&& 0x3F = 0x1D := decide_eq_true_iff
    rw [hhead]
    exact ⟨fun hb => ⟨b, t, rfl, hb⟩, fun ⟨_, _, hcons, hb⟩ => (List.cons.inj hcons).1 ▸ hb⟩

/-- Settles O35: the gate decides which of the two steps is enabled, and the deadline whether the second is. -/
theorem gateWaitExits : Obligations.GateWaitExits := by
  intro s hst hcancel
  refine ⟨?ready, ?timeout, ?early⟩
  case ready =>
    intro hgate
    rw [exec_tReady_of_gate hst hcancel hgate, consumeAtWaitExit_of_gate hgate]
    rfl
  case timeout => exact exec_tTimeout_of_deadline hst hcancel
  case early => exact fun hgate hdeadline => ⟨exec_tReady_no_gate hgate, exec_tTimeout_early hdeadline⟩

/-- Settles O36: T_CANCEL asks for the cancellation, and the other steps of the wait states for its absence. -/
theorem cancelStopsTransmitter : Obligations.CancelStopsTransmitter := by
  refine fun s => ⟨?cancelled, ?kept⟩
  case cancelled =>
    exact fun hst hcancel => ⟨exec_tCancel_cancelled hst hcancel, exec_tReady_cancelled hcancel,
      exec_tTimeout_cancelled hcancel, takeStep_cancelled hcancel⟩
  case kept =>
    rintro (hst | hcancel)
    · exact exec_tCancel_sending hst
    · exact exec_tCancel_not_cancelled hcancel

/-- Settles O37: the TAKE of a queued message, with its frame written out, and of none. -/
theorem takeFramesHead : Obligations.TakeFramesHead := by
  refine ⟨?head, fun s => takeStep_nil, fun m => isBareAck_iff⟩
  intro s m rest hst hcancel hq
  have htake : exec .tTake s = .next (s.takeMessage m rest) := takeStep_take hst hcancel hq
  rw [htake, State.takeMessage, consumeAtTake_eq]
  rfl

/-! ### The sending of a frame (R127 to R129) -/

/-- The state after the sink has accepted the bytes `sent`, with `unsent` left of the frame and `answers` left of the
sink's answers (43_transmitter R127). -/
def State.emitted (s : State) (sent unsent : List Byte) (answers : List SinkAnswer) : State :=
  { s with wireOut := s.wireOut ++ sent, tx := { s.tx with frame := unsent }, sinkAns := answers }

theorem exec_tEmit_accepted (hst : s.tx.st = .send) (hframe : s.tx.frame = b :: bytes) (hopen : s.streamOpen = true)
    (hans : s.sinkAns = .accept :: answers) : exec .tEmit s = .next (s.emitted [b] bytes answers) := by
  simp only [exec, execTEmit, hst, hframe, hopen, hans, State.emitted]

theorem exec_tEmit_unanswered (hans : s.sinkAns = []) : exec .tEmit s = .next s := by
  simp [exec, execTEmit, hans, hold]

theorem exec_tWrerr_closed (hst : s.tx.st = .send) (hframe : s.tx.frame = b :: bytes) (hclosed : s.streamOpen = false) :
    exec .tWrerr s = .next (s.txStop .writeError) := by
  simp only [exec, execTWrerr, hst, hframe, hclosed]

theorem exec_tWrerr_error (hst : s.tx.st = .send) (hframe : s.tx.frame = b :: bytes) (hopen : s.streamOpen = true)
    (hans : s.sinkAns = .error :: answers) :
    exec .tWrerr s = .next (State.txStop { s with sinkAns := answers } .writeError) := by
  simp only [exec, execTWrerr, hst, hframe, hopen, hans]

theorem exec_tEnd_of_nil (hst : s.tx.st = .send) (hframe : s.tx.frame = []) : exec .tEnd s = .next s.endFrame :=
  if_pos ⟨hst, hframe⟩

/-- Settles O38: the sink's answer decides. -/
theorem emitWritesOneByte : Obligations.EmitWritesOneByte :=
  fun _ _ _ _ hst hframe hopen => ⟨exec_tEmit_accepted hst hframe hopen, exec_tEmit_unanswered⟩

/-- Settles O39: the write fails without the sink, or by its answer. -/
theorem writeErrorStopsTransmitter : Obligations.WriteErrorStopsTransmitter :=
  fun _ _ _ hst hframe => ⟨exec_tWrerr_closed hst hframe, fun _ => exec_tWrerr_error hst hframe⟩

/-- Settles O40: the end of a bare acknowledgment sets the gate, every other leaves it. -/
theorem endOfFrame : Obligations.EndOfFrame := by
  intro s hst hframe
  rw [exec_tEnd_of_nil hst hframe, State.endFrame]
  cases s.tx.isAck <;> rfl

/-! ### A whole frame (R134) -/

theorem State.emitted_emitted (s : State) (sent sent' unsent unsent' : List Byte) (answers answers' : List SinkAnswer) :
    (s.emitted sent unsent answers).emitted sent' unsent' answers' = s.emitted (sent ++ sent') unsent' answers' := by
  simp [State.emitted]

/-- A sink that accepts the bytes of the frame one after the other gets all of them, in order. -/
theorem runAll_tEmit (hst : s.tx.st = .send) (hopen : s.streamOpen = true) (hframe : s.tx.frame = bytes)
    (hans : s.sinkAns = List.replicate bytes.length .accept ++ answers) (later : List Instr) :
    runAll (List.replicate bytes.length .tEmit ++ later) s = runAll later (s.emitted bytes [] answers) := by
  induction bytes generalizing s with
  | nil =>
    have hdone : s.emitted [] [] answers = s := by
      simp only [List.length_nil, List.replicate_zero, List.nil_append] at hans
      rw [State.emitted, List.append_nil, ← hframe, ← hans]
    rw [hdone]; rfl
  | cons b bytes ih =>
    have hemit := exec_tEmit_accepted hst hframe hopen hans
    calc runAll (.tEmit :: (List.replicate bytes.length .tEmit ++ later)) s
        = runAll (List.replicate bytes.length .tEmit ++ later)
            (s.emitted [b] bytes (List.replicate bytes.length .accept ++ answers)) := runAll_cons hemit _
      _ = runAll later ((s.emitted [b] bytes (List.replicate bytes.length .accept ++ answers)).emitted bytes [] answers) :=
          ih (s := s.emitted [b] bytes _) hst hopen rfl rfl
      _ = runAll later (s.emitted (b :: bytes) [] answers) := by rw [State.emitted_emitted]; rfl

/-- From TX_TAKE the head message's frame is taken, written and ended: what the statement says of the end, for a TAKE that
leaves the gate false. -/
theorem transmits_from_take (hst : s.tx.st = .take) (hcancel : s.cancel = false) (hopen : s.streamOpen = true)
    (hq : s.q = m :: rest) (hans : s.sinkAns = List.replicate (encodeFrame m).length .accept ++ answers)
    (hgate : (s.takeMessage m rest).gate = false) :
    ∃ t, runAll (.tTake :: (List.replicate (encodeFrame m).length .tEmit ++ [.tEnd])) s = .next t ∧
      t.wireOut = s.wireOut ++ encodeFrame m ∧ t.q = rest ∧ t.sinkAns = answers ∧ t.now = s.now ∧
      t.tx.st = .wait ∧ t.tx.frame = [] ∧ t.tx.deadline = s.now + s.cfg.gateTimeoutMs ∧ t.gate = isBareAck m ∧
      t.ev = s.ev ∧ t.rx = s.rx ∧ t.reg = s.reg ∧ t.host = s.host ∧ t.conn = s.conn ∧ t.wireIn = s.wireIn := by
  have htake : exec .tTake s = .next (s.takeMessage m rest) := takeStep_take hst hcancel hq
  have hsent := runAll_tEmit (s := s.takeMessage m rest) (bytes := encodeFrame m) rfl hopen rfl hans [.tEnd]
  have hend := exec_tEnd_of_nil (s := (s.takeMessage m rest).emitted (encodeFrame m) [] answers) rfl rfl
  have hgateEnd : ((s.takeMessage m rest).emitted (encodeFrame m) [] answers).endFrame.gate = isBareAck m := by
    calc _ = if isBareAck m then true else (s.takeMessage m rest).gate := rfl
      _ = isBareAck m := by rw [hgate]; cases isBareAck m <;> rfl
  exact ⟨_, (runAll_cons htake _).trans (hsent.trans (runAll_cons hend [])), rfl, rfl, rfl, rfl, rfl, rfl, rfl, hgateEnd,
    rfl, rfl, rfl, rfl, rfl, rfl⟩

/-- Whichever consume point P_GATE_CONSUME names, the wait's exit and the TAKE together clear the gate (42_gate R119). -/
theorem gate_cleared_by_take (s : State) : ((s.consumeAtWaitExit.txGoto .take).takeMessage m rest).gate = false := by
  cases hconsume : s.cfg.gateConsume <;> simp [hconsume]

/-- Settles O41: the gate's exit or the timeout leads to TX_TAKE, and from there the frame is sent. -/
theorem transmitterWritesWholeFrame : Obligations.TransmitterWritesWholeFrame := by
  intro s m rest answers hst hcancel hopen hq hexit hans
  cases hgate : s.gate with
  | true =>
    have hready := exec_tReady_of_gate hst hcancel hgate
    obtain ⟨t, hrun, hrest⟩ := transmits_from_take (s := s.consumeAtWaitExit.txGoto .take) rfl hcancel hopen hq hans
      (gate_cleared_by_take s)
    exact ⟨t, (runAll_cons hready _).trans hrun, hrest⟩
  | false =>
    have hdeadline : s.tx.deadline ≤ s.now := hexit.resolve_left (by simp [hgate])
    have htimeout := exec_tTimeout_of_deadline hst hcancel hgate hdeadline
    obtain ⟨t, hrun, hrest⟩ := transmits_from_take (s := (s.raise [.gateTimeout]).txGoto .take) rfl hcancel hopen hq hans
      (by simp [hgate])
    exact ⟨t, (runAll_cons htimeout _).trans hrun, hrest⟩

end Sys2Proof.Machine
end

section
/-! Settles O42 (43_transmitter R133). A step does one of a few things to the connection, the Transmitter and the wire record,
which `WireEffect` lists; the shape of what stands on the wire is carried over each of them, and begun anew by CONNECT. -/

namespace Sys2Proof.Machine

variable {s t : State} {h : Nat} {k : State → State} {base : List Byte} {i : Instr}

/-! ### The effects on the wire -/

/-- What the shape of the wire record and the start of a connection are read from. -/
def State.wireSide (s : State) : Conn × TxRegs × List Byte := (s.conn, s.tx, s.wireOut)

/-- What a step does to the connection, the Transmitter and the wire record. -/
inductive WireEffect (s t : State) : Prop
  /-- nothing: another agent's step, or a hold -/
  | kept (ht : t.wireSide = s.wireSide)
  /-- CONNECT (46_host_ops R168) -/
  | connects (hconn : s.conn = .disconnected) (ht : t.wireSide = s.connect.wireSide)
  /-- DISCONNECT's initiation (46_host_ops R170) -/
  | closes (hconn : s.conn = .connected) (ht : t.wireSide = s.startClosing.wireSide)
  /-- the completion of a disconnect (46_host_ops R171) -/
  | completes (ht : t.wireSide = s.completeDisconnect.wireSide)
  /-- the end of the gate wait (R123, R124) -/
  | waitEnds (hst : s.tx.st = .wait) (ht : t.wireSide = (s.txGoto .take).wireSide)
  /-- the cancellation, or a write failure (R125, R128) -/
  | stops (ht : t.wireSide = (s.txGoto .stopped).wireSide)
  /-- the TAKE (R126) -/
  | takes (m : Message) (rest : List Message) (hst : s.tx.st = .take) (ht : t.wireSide = (s.takeMessage m rest).wireSide)
  /-- one byte of the frame (R127) -/
  | emits (b : Byte) (bytes : List Byte) (answers : List SinkAnswer) (hst : s.tx.st = .send)
      (hframe : s.tx.frame = b :: bytes) (ht : t.wireSide = (s.emitted [b] bytes answers).wireSide)
  /-- the end of the frame (R129) -/
  | ends (hst : s.tx.st = .send) (hframe : s.tx.frame = []) (ht : t.wireSide = s.endFrame.wireSide)

/-! ### The shape, carried over each effect -/

theorem wireShape_congr (ht : t.wireSide = s.wireSide) (hs : s.wireShape base) : t.wireShape base := by
  obtain ⟨-, htx, hwire⟩ : t.conn = s.conn ∧ t.tx = s.tx ∧ t.wireOut = s.wireOut := by simpa [State.wireSide] using ht
  unfold State.wireShape
  rw [htx, hwire]
  exact hs

/-- A Transmitter that is off or stopped leaves on the wire what it has written. -/
theorem wireShape_at_rest (hst : t.tx.st = .off ∨ t.tx.st = .stopped) (hwire : t.wireOut = s.wireOut)
    (hs : s.wireShape base) : t.wireShape base := by
  obtain ⟨ms, m, part, hout, hpart, -, -⟩ := hs
  refine ⟨ms, m, part, hwire.trans hout, hpart, fun h => ?_, fun h => ?_⟩
  · simp [h] at hst
  · rcases h with h | h <;> simp [h] at hst

theorem wireShape_connect (s : State) : s.connect.wireShape s.wireOut :=
  ⟨[], [], [], by simp, List.nil_prefix, nofun, fun _ => rfl⟩

theorem wireShape_waitEnds (hst : s.tx.st = .wait) (hs : s.wireShape base) : (s.txGoto .take).wireShape base := by
  obtain ⟨ms, m, part, hout, hpart, -, hnil⟩ := hs
  exact ⟨ms, m, part, hout, hpart, nofun, fun _ => hnil (.inl hst)⟩

/-- Nothing of the frame that is taken has been written. -/
theorem wireShape_takeMessage {m : Message} {rest : List Message} (hst : s.tx.st = .take) (hs : s.wireShape base) :
    (s.takeMessage m rest).wireShape base := by
  obtain ⟨ms, _, part, hout, -, -, hnil⟩ := hs
  obtain rfl := hnil (.inr hst)
  exact ⟨ms, m, [], hout, List.nil_prefix, fun _ => rfl, fun _ => rfl⟩

/-- The byte written is the next of the frame whose first part is written. -/
theorem wireShape_emitted {b : Byte} {bytes : List Byte} (hst : s.tx.st = .send) (hframe : s.tx.frame = b :: bytes)
    (answers : List SinkAnswer) (hs : s.wireShape base) : (s.emitted [b] bytes answers).wireShape base := by
  obtain ⟨ms, m, part, hout, -, hsplit, -⟩ := hs
  have hnext : (part ++ [b]) ++ bytes = encodeFrame m := by
    rw [← hsplit hst, hframe, List.append_assoc, List.singleton_append]
  refine ⟨ms, m, part ++ [b], ?_, ⟨bytes, hnext⟩, fun _ => hnext, ?_⟩
  · simp [State.emitted, hout]
  · intro h
    simp [State.emitted, hst] at h

/-- The frame of which nothing is left is whole on the wire, and the next has not begun. -/
theorem wireShape_endFrame (hst : s.tx.st = .send) (hframe : s.tx.frame = []) (hs : s.wireShape base) :
    s.endFrame.wireShape base := by
  obtain ⟨ms, m, part, hout, -, hsplit, -⟩ := hs
  have hwhole : part = encodeFrame m := by rw [← hsplit hst, hframe, List.append_nil]
  exact ⟨ms ++ [m], m, [], by simp [hout, hwhole], List.nil_prefix, nofun, fun _ => rfl⟩

theorem conn_of_wireSide {u : State} (ht : t.wireSide = u.wireSide) : t.conn = u.conn := congrArg Prod.fst ht

/-- Every effect but CONNECT's keeps the shape. -/
theorem WireEffect.keeps_shape (he : WireEffect s t) (hno : ¬ (s.conn = .disconnected ∧ t.conn = .connected))
    (hs : s.wireShape base) : t.wireShape base := by
  cases he with
  | kept ht => exact wireShape_congr ht hs
  | connects hconn ht => exact absurd ⟨hconn, conn_of_wireSide ht⟩ hno
  | closes hconn ht => exact wireShape_congr (s := s.startClosing) ht hs
  | completes ht => exact wireShape_congr ht (wireShape_at_rest (s := s) (.inl rfl) rfl hs)
  | waitEnds hst ht => exact wireShape_congr ht (wireShape_waitEnds hst hs)
  | stops ht => exact wireShape_congr ht (wireShape_at_rest (s := s) (.inr rfl) rfl hs)
  | takes m rest hst ht => exact wireShape_congr ht (wireShape_takeMessage hst hs)
  | emits b bytes answers hst hframe ht => exact wireShape_congr ht (wireShape_emitted hst hframe answers hs)
  | ends hst hframe ht => exact wireShape_congr ht (wireShape_endFrame hst hframe hs)

/-- CONNECT alone begins a connection, with nothing of it written (46_host_ops R168). -/
theorem WireEffect.begins_shape (he : WireEffect s t) (hfrom : s.conn = .disconnected) (hto : t.conn = .connected) :
    t.wireShape s.wireOut := by
  have hmoved {u : State} (ht : t.wireSide = u.wireSide) (hu : u.conn = s.conn) : False := by
    rw [conn_of_wireSide ht, hu, hfrom] at hto
    cases hto
  cases he with
  | connects hconn ht => exact wireShape_congr ht (wireShape_connect s)
  | closes hconn ht => cases hfrom.symm.trans hconn
  | completes ht => cases hto.symm.trans (conn_of_wireSide ht)
  | kept ht | waitEnds hst ht | stops ht | takes m rest hst ht | emits b bytes answers hst hframe ht
  | ends hst hframe ht => exact (hmoved ht rfl).elim

/-! ### The host commands (46_host_ops R168 to R182, 45_dispatch R158, R159) -/

theorem insertOrHold_wireSide (s : State) (h : Nat) (m : Message) (c : HostCmd) :
    (s.insertOrHold h m c).wireSide = s.wireSide := by
  rcases insertOrHold_cases s h m c with ⟨-, hc⟩ | hc <;> rw [hc] <;> rfl

theorem sendChecks_wireSide {op : BitVec 4} {m : Message} (hk : (k s).wireSide = s.wireSide) :
    (s.sendChecks h op m k).wireSide = s.wireSide := by
  rcases sendChecks_cases s h op m k with ⟨-, hc⟩ | ⟨-, -, hc⟩ | ⟨-, -, hc⟩ <;> rw [hc]
  · rfl
  · rfl
  · exact hk

theorem sendIssue_wireSide (s : State) (h : Nat) (op : BitVec 4) (m : Message) (c : HostCmd) :
    (s.sendIssue h op m c).wireSide = s.wireSide := sendChecks_wireSide (insertOrHold_wireSide s h m c)

theorem issue_wireEffect (hk : WireEffect s (k s)) (e : issue h s k = .next t) : WireEffect s t := by
  rcases issue_cases e with rfl | ⟨-, rfl⟩
  · exact .kept rfl
  · exact hk

theorem reservedCommand_wireEffect {op : BitVec 4} (e : reservedCommand h op s = .next t) : WireEffect s t :=
  issue_wireEffect (.kept rfl) e

theorem sizeQuery_wireEffect (e : sizeQuery h s = .next t) : WireEffect s t := issue_wireEffect (.kept rfl) e

theorem fullQuery_wireEffect (e : fullQuery h s = .next t) : WireEffect s t := issue_wireEffect (.kept rfl) e

theorem execConnect_wireEffect (e : execConnect h s = .next t) : WireEffect s t := by
  refine issue_wireEffect ?_ e
  split
  · next hconn => exact .connects hconn rfl
  · exact .kept rfl

theorem execDisconnect_wireEffect (e : execDisconnect h s = .next t) : WireEffect s t := by
  refine issue_wireEffect ?_ e
  split
  · next hconn => exact .closes hconn rfl
  · exact .kept rfl
  · exact .kept rfl

theorem execSend_wireEffect {m : Message} (e : execSend h m s = .next t) : WireEffect s t :=
  issue_wireEffect (.kept (sendIssue_wireSide s h _ m _)) e

theorem execSendTimed_wireEffect {m : Message} {tMs : Nat} (e : execSendTimed h m tMs s = .next t) : WireEffect s t := by
  refine issue_wireEffect (.kept (sendChecks_wireSide ?_)) e
  exact insertOrHold_wireSide (s.setDeadline h (s.now + tMs)) h m _

theorem execSubscribe_wireEffect {lid : LID} (e : execSubscribe h lid s = .next t) : WireEffect s t := by
  refine issue_wireEffect (.kept ?_) e
  split
  · rfl
  · split <;> rfl

theorem execUnsubscribe_wireEffect {lid : LID} (e : execUnsubscribe h lid s = .next t) : WireEffect s t :=
  issue_wireEffect (.kept rfl) e

theorem execSetClock_wireEffect {year month day hour minute dow : Nat}
    (e : execSetClock h year month day hour minute dow s = .next t) : WireEffect s t := by
  refine issue_wireEffect (.kept ?_) e
  split
  · exact sendIssue_wireSide s h _ _ _
  · split <;> rfl

/-! ### The steps of the loops -/

theorem takeStep_wireEffect (e : takeStep s = .next t) : WireEffect s t := by
  rcases takeStep_cases e with rfl | ⟨m, rest, hst, -, -, rfl⟩
  · exact .kept rfl
  · exact .takes m rest hst rfl

theorem execTEmit_wireEffect (e : execTEmit s = .next t) : WireEffect s t := by
  rcases execTEmit_cases e with rfl | ⟨b, bytes, answers, hst, hframe, -, -, rfl⟩
  · exact .kept rfl
  · exact .emits b bytes answers hst hframe rfl

theorem execTWrerr_wireEffect (e : execTWrerr s = .next t) : WireEffect s t := by
  rcases execTWrerr_cases e with rfl | ⟨-, -, -, rfl⟩ | ⟨answers, -, -, -, -, rfl⟩
  · exact .kept rfl
  · exact .stops rfl
  · exact .stops rfl

theorem ackInsertStep_wireEffect (e : ackInsertStep s = .next t) : WireEffect s t := by
  rcases ackInsertStep_cases e with rfl | ⟨-, -, -, rfl⟩ <;> exact .kept rfl

theorem ackAbortStep_wireEffect (e : ackAbortStep s = .next t) : WireEffect s t := by
  rcases ackAbortStep_cases e with rfl | ⟨-, -, -, -, rfl⟩ <;> exact .kept rfl

theorem cs2Step_wireEffect (e : cs2Step s = .next t) : WireEffect s t := by
  rcases cs2Step_cases e with rfl | ⟨b, -, -, rfl⟩ <;> exact .kept (by simp [State.wireSide])

/-- A symbol read by the Receiver. -/
theorem read_wireEffect (s : State) (r : RxRegs LID) : WireEffect s { s.consumeSymbol with rx := r } :=
  .kept (by simp [State.wireSide])

/-! ### Every instruction, every step -/

/-- Every instruction has one of the effects. -/
theorem exec_wireEffect (e : exec i s = .next t) : WireEffect s t := by
  cases i with
  | reserved0 | reservedA | reservedB | reservedC | reservedD | reservedE | reservedF =>
    exact reservedCommand_wireEffect e
  | connect => exact execConnect_wireEffect e
  | disconnect => exact execDisconnect_wireEffect e
  | send => exact execSend_wireEffect e
  | sendTimed => exact execSendTimed_wireEffect e
  | subscribe => exact execSubscribe_wireEffect e
  | unsubscribe => exact execUnsubscribe_wireEffect e
  | setClock => exact execSetClock_wireEffect e
  | querySize | size => exact sizeQuery_wireEffect e
  | queryFull | isFull => exact fullQuery_wireEffect e
  | append => rcases execAppend_cases e with rfl | ⟨c, -, -, -, -, rfl⟩ <;> exact .kept rfl
  | appendTimed => rcases execAppendTimed_cases e with rfl | ⟨-, -, ⟨-, rfl⟩ | ⟨-, -, rfl⟩⟩ <;> exact .kept rfl
  | prepend =>
    rcases execPrepend_cases e with rfl | ⟨-, e⟩
    · exact .kept rfl
    · exact ackInsertStep_wireEffect e
  | take | tTake => exact takeStep_wireEffect e
  | flag | escape | esc7E | esc7D | escIllegal | frame =>
    cases e
    exact .kept (by simp [State.wireSide])
  | ackreq =>
    rcases execAckreq_cases e with rfl | e | e
    · exact .kept rfl
    · exact ackInsertStep_wireEffect e
    · exact ackAbortStep_wireEffect e
  | typeBareAck =>
    rcases execTypeBareAck_cases e with rfl | ⟨-, e⟩
    · exact .kept rfl
    · exact takeStep_wireEffect e
  | typeExempt =>
    rcases execTypeExempt_cases e with rfl | ⟨-, e⟩
    · exact .kept rfl
    · exact cs2Step_wireEffect e
  | notify => rcases execNotify_cases e with rfl | ⟨n, -, -, -, rfl⟩ <;> exact .kept rfl
  | tReady =>
    rcases execTReady_cases e with rfl | ⟨hst, -, -, rfl⟩
    · exact .kept rfl
    · exact .waitEnds hst rfl
  | tTimeout =>
    rcases execTTimeout_cases e with rfl | ⟨hst, -, -, -, rfl⟩
    · exact .kept rfl
    · exact .waitEnds hst rfl
  | tCancel =>
    rcases execTCancel_cases e with rfl | ⟨-, -, rfl⟩
    · exact .kept rfl
    · exact .stops rfl
  | tEmit => exact execTEmit_wireEffect e
  | tWrerr => exact execTWrerr_wireEffect e
  | tEnd =>
    rcases execTEnd_cases e with rfl | ⟨hst, hframe, rfl⟩
    · exact .kept rfl
    · exact .ends hst hframe rfl
  | rHuntSkip =>
    rcases execRHuntSkip_cases e with rfl | ⟨b, -, -, -, rfl⟩
    · exact .kept rfl
    · exact read_wireEffect s _
  | rHuntFlag =>
    rcases execRHuntFlag_cases e with rfl | ⟨-, -, rfl⟩
    · exact .kept rfl
    · exact read_wireEffect s _
  | rLen =>
    rcases execRLen_cases e with rfl | ⟨b, -, -, rfl⟩
    · exact .kept rfl
    · exact read_wireEffect s _
  | rDataPlain =>
    rcases execRDataPlain_cases e with rfl | ⟨b, -, -, -, -, rfl⟩
    · exact .kept rfl
    · exact read_wireEffect s _
  | rDataEsc =>
    rcases execRDataEsc_cases e with rfl | ⟨-, -, -, rfl⟩
    · exact .kept rfl
    · exact read_wireEffect s _
  | rEscOk =>
    rcases execREscOk_cases e with rfl | ⟨b, -, -, -, -, rfl⟩
    · exact .kept rfl
    · exact read_wireEffect s _
  | rEscBad =>
    rcases execREscBad_cases e with rfl | ⟨b, -, -, -, -, rfl⟩
    · exact .kept rfl
    · exact read_wireEffect s _
  | rCs1 =>
    rcases execRCs1_cases e with rfl | ⟨b, -, -, rfl⟩
    · exact .kept rfl
    · exact read_wireEffect s _
  | rCs2 => exact cs2Step_wireEffect e
  | rAckInsert => exact ackInsertStep_wireEffect e
  | rAckHold => exact .kept (by rw [hold_cases e])
  | rAckAbort => exact ackAbortStep_wireEffect e
  | rAckNone => rcases execRAckNone_cases e with rfl | ⟨-, -, rfl⟩ <;> exact .kept rfl
  | rGate => rcases execRGate_cases e with rfl | ⟨-, ⟨-, -, rfl⟩ | ⟨-, rfl⟩⟩ <;> exact .kept rfl
  | rDeliverOk => rcases execRDeliverOk_cases e with rfl | ⟨n, -, -, rfl⟩ <;> exact .kept rfl
  | rDeliverFault => rcases execRDeliverFault_cases e with rfl | ⟨n, -, -, rfl⟩ <;> exact .kept rfl
  | rClose => rcases execRClose_cases e with rfl | ⟨r, -, rfl, -⟩ <;> exact .kept (by simp [State.wireSide])
  | disconnectComplete =>
    rcases execDisconnectComplete_cases e with rfl | ⟨-, -, -, rfl⟩
    · exact .kept rfl
    · exact .completes rfl
  | insertRelease => rcases execInsertRelease_cases e with rfl | ⟨c, -, -, -, rfl⟩ <;> exact .kept rfl

/-- Taking up a choice and the environment's own steps write neither the wire record nor the Transmitter. -/
theorem step_wireEffect (e : step s = .next t) :
    ∃ u : State, u.wireSide = s.wireSide ∧ WireEffect u t := by
  have hf : s.fetched.wireSide = s.wireSide := by simp [State.wireSide]
  have hstep : step s = step (s.fetched.choosing s.fetch) := rfl
  rw [hstep] at e
  rcases step_choosing_cases e with
    ⟨split, p, i, -, -, e⟩ | ⟨ms, -, rfl⟩ | ⟨xs, -, rfl⟩ | ⟨-, rfl⟩ | ⟨answers, -, rfl⟩ | ⟨-, rfl⟩
  · exact ⟨s.fetched.withSplit split, hf, exec_wireEffect e⟩
  · exact ⟨s.fetched, hf, .kept rfl⟩
  · exact ⟨s.fetched, hf, .kept (by simp [State.wireSide])⟩
  · exact ⟨s.fetched, hf, .kept rfl⟩
  · exact ⟨s.fetched, hf, .kept (by simp [State.wireSide])⟩
  · exact ⟨s.fetched, hf, .kept rfl⟩

/-- Settles O42: the step has one of the effects, which keeps the shape or begins it. -/
theorem wireShapeKept : Obligations.WireShapeKept := by
  intro s t e
  obtain ⟨u, hu, he⟩ := step_wireEffect e
  have hconn : u.conn = s.conn := conn_of_wireSide hu
  have hwire : u.wireOut = s.wireOut := congrArg (·.2.2) hu
  rw [← hconn, ← hwire]
  exact ⟨fun base hno hs => he.keeps_shape hno (wireShape_congr hu hs), he.begins_shape⟩

end Sys2Proof.Machine
end

section
/-! Settles O43 to O50 and O54 (44_receiver R136 to R153, 45_dispatch R160). One equation per step of the Receiver where it is
enabled, with what the consumed symbol leaves of the wire; a statement about a step is its equation, written out. -/

namespace Sys2Proof.Machine

variable {s : State} {b : Byte} {x : Symbol} {rest : List Symbol}

/-! ### The symbol consumed (R136) -/

theorem consumeSymbol_cons (hopen : s.streamOpen = true) (hwire : s.wireIn = x :: rest) :
    s.consumeSymbol = { s with wireIn := rest } := by
  rw [State.consumeSymbol, if_pos hopen, hwire, List.tail_cons]

theorem consumeSymbol_closed (hclosed : s.streamOpen = false) : s.consumeSymbol = s :=
  if_neg (by simp [hclosed])

theorem recv_cons (hopen : s.streamOpen = true) (hwire : s.wireIn = x :: rest) : s.recv = some x := by
  rw [State.recv, if_pos hopen, hwire, List.head?_cons]

theorem recv_closed (hclosed : s.streamOpen = false) : s.recv = some .closed := if_neg (by simp [hclosed])

/-! ### The steps that read a byte (R137 to R146) -/

theorem exec_rHuntSkip_other (hst : s.rx.st = .hunt) (hb : s.recvByte = some b) (hne : b ≠ 0x7E) :
    exec .rHuntSkip s = .next s.consumeSymbol := by
  simp only [exec, execRHuntSkip, hst, hb, if_neg hne]

theorem exec_rHuntSkip_flag (hst : s.rx.st = .hunt) (hb : s.recvByte = some 0x7E) : exec .rHuntSkip s = .next s := by
  simp only [exec, execRHuntSkip, hst, hb, if_pos, hold]

theorem exec_rHuntFlag_flag (hst : s.rx.st = .hunt) (hb : s.recvByte = some 0x7E) :
    exec .rHuntFlag s = .next (s.consumeSymbol.rxGoto .len) := by
  simp only [exec, execRHuntFlag, hst, hb, if_pos]

theorem exec_rHuntFlag_other (hst : s.rx.st = .hunt) (hb : s.recvByte = some b) (hne : b ≠ 0x7E) :
    exec .rHuntFlag s = .next s := by
  simp only [exec, execRHuntFlag, hst, hb, if_neg hne, hold]

theorem exec_rLen_byte (hst : s.rx.st = .len) (hb : s.recvByte = some b) :
    exec .rLen s = .next { s.consumeSymbol with rx := s.rx.startFrame b } := by
  simp only [exec, execRLen, hst, hb]

theorem exec_rDataPlain_plain (hst : s.rx.st = .data) (hesc : s.rx.esc = false) (hb : s.recvByte = some b)
    (hne : b ≠ 0x7D) : exec .rDataPlain s = .next { s.consumeSymbol with rx := s.rx.accept b } := by
  simp only [exec, execRDataPlain, hst, hesc, hb, if_neg hne]

theorem exec_rCs1_byte (hst : s.rx.st = .cs1) (hb : s.recvByte = some b) :
    exec .rCs1 s = .next { s.consumeSymbol with rx := { s.rx with c1 := b, st := .cs2 } } := by
  simp only [exec, execRCs1, hst, hb]

/-- Settles O43: whether the byte is the flag decides which of the two steps is enabled. -/
theorem huntForFlag : Obligations.HuntForFlag := by
  intro s b rest hst hopen hwire
  have hb := recvByte_cons hopen hwire
  refine ⟨?other, ?flag⟩
  case other =>
    intro hne
    exact ⟨by rw [exec_rHuntSkip_other hst hb hne, consumeSymbol_cons hopen hwire], exec_rHuntFlag_other hst hb hne⟩
  case flag =>
    rintro rfl
    exact ⟨by rw [exec_rHuntFlag_flag hst hb, consumeSymbol_cons hopen hwire]; rfl, exec_rHuntSkip_flag hst hb⟩

/-- Settles O44: the step on any byte. -/
theorem lengthByteStartsFrame : Obligations.LengthByteStartsFrame := by
  intro s b rest hst hopen hwire
  rw [exec_rLen_byte hst (recvByte_cons hopen hwire), consumeSymbol_cons hopen hwire]
  rfl

/-- Both sums after an accepted byte, in natural numbers (R144). -/
theorem accept_eq (r : RxRegs LID) (v : Byte) :
    r.accept v =
      { r with
        buf := r.buf ++ [v]
        s1 := BitVec.ofNat 8 ((r.s1.toNat + v.toNat) % 255)
        s2 := BitVec.ofNat 8 ((r.s2.toNat + (r.s1.toNat + v.toNat) % 255) % 255)
        st := if r.buf.length + 1 = r.len.toNat then .cs1 else .data } := by
  have hsum2 : add255 r.s2 (add255 r.s1 v) =
      BitVec.ofNat 8 ((r.s2.toNat + (r.s1.toNat + v.toNat) % 255) % 255) := by rw [add255, add255_toNat]
  rw [RxRegs.accept, hsum2]
  rfl

/-- Settles O45: outside a pair the byte is plain or opens one, inside it is a legal code or not. -/
theorem dataBytes : Obligations.DataBytes := by
  intro s b rest hst hopen hwire accepted
  have hb := recvByte_cons hopen hwire
  have hconsumed := consumeSymbol_cons hopen hwire
  have haccepted (v : Byte) (serr : Bool) :
      accepted v serr =
        { s.consumeSymbol with rx := RxRegs.accept { s.rx with esc := false, serr := serr } v } := by
    rw [hconsumed, accept_eq]
  refine ⟨?plain, ?escape, ?code5E, ?code5D, ?illegal⟩
  case plain =>
    intro hesc hne
    rw [exec_rDataPlain_plain hst hesc hb hne, haccepted, ← hesc]
  case escape =>
    rintro hesc rfl
    rw [exec_rDataEsc_escape hst hesc hb, hconsumed]
  case code5E =>
    rintro hesc rfl
    rw [exec_rEscOk_legal hst hesc hb rfl, haccepted]
    rfl
  case code5D =>
    rintro hesc rfl
    rw [exec_rEscOk_legal hst hesc hb rfl, haccepted]
    rfl
  case illegal =>
    intro hesc h5E h5D
    have hcode := unstuff2_illegal h5E h5D
    rw [exec_rEscBad_illegal hst hesc hb (by rw [hcode]), haccepted, hcode]

/-- Settles O46: the events and the validity follow the stuffing error, the comparison and the type code. -/
theorem checksumBytes : Obligations.ChecksumBytes := by
  refine ⟨?first, ?second⟩
  case first =>
    intro s b rest hst hopen hwire
    rw [exec_rCs1_byte hst (recvByte_cons hopen hwire), consumeSymbol_cons hopen hwire]
  case second =>
    intro s b rest hst hopen hwire sums free
    have hexec : exec .rCs2 s = .next (s.finishFrame b) := cs2Step_byte hst (recvByte_cons hopen hwire)
    have hfree : free = exempt s.rx.buf := by
      simp only [free]
      cases s.rx.buf <;> rfl
    have hsums : sums = s.rx.sumsMatch b := rfl
    rw [hexec, State.finishFrame, consumeSymbol_cons hopen hwire, RxRegs.validity, RxRegs.frameEvents, ← hfree, ← hsums,
      State.raise, List.append_assoc]
    cases s.rx.serr <;> cases sums <;> cases free <;> rfl

/-! ### The acknowledgment (R147 to R150) -/

theorem ackreq_cons {t : Message} (hbuf : s.rx.buf = b :: t) :
    s.rx.ackreq = (decide (1 ≤ s.rx.len.toNat) && b.getLsbD 7) := by
  simp only [RxRegs.ackreq, hbuf, ackBit]

theorem ackreq_of_bit {t : Message} (hbuf : s.rx.buf = b :: t) (hlen : 1 ≤ s.rx.len.toNat)
    (hbit : b.getLsbD 7 = true) : s.rx.ackreq = true := by
  rw [ackreq_cons hbuf, hbit, decide_eq_true hlen, Bool.and_true]

theorem ackreq_of_len_zero (hlen : s.rx.len.toNat = 0) : s.rx.ackreq = false := by
  unfold RxRegs.ackreq
  cases s.rx.buf with
  | nil => rfl
  | cons b t => simp [hlen]

/-- Only the steps of the acknowledgment are enabled in RX_ACK. -/
theorem exec_rxStep_ack (hst : s.rx.st = .ack) {i : Instr} (hi : i ∈ rxSteps)
    (hother : i ∉ [Instr.rAckInsert, .rAckAbort, .rAckNone]) : exec i s = .next s := by
  have hoffer : s.offer = none := by simp only [State.offer, RxRegs.offer, hst]
  cases i with
  | rAckInsert | rAckAbort | rAckNone => exact absurd (by simp) hother
  | rHuntSkip | rHuntFlag | rLen | rDataPlain | rDataEsc | rEscOk | rEscBad | rCs1 | rCs2 =>
    simp only [exec, execRHuntSkip, execRHuntFlag, execRLen, execRDataPlain, execRDataEsc, execREscOk, execREscBad,
      execRCs1, execRCs2, cs2Step, hst, hold]
  | rGate => exact if_neg (by simp [hst])
  | rDeliverOk | rDeliverFault => simp only [exec, execRDeliverOk, execRDeliverFault, hoffer, hold]
  | rClose => simp only [exec, execRClose, hst, RxSt.reading, hold]
  | _ => simp [rxSteps] at hi

theorem exec_rAckNone_asked (hreq : s.rx.ackreq = true) : exec .rAckNone s = .next s :=
  if_neg fun ⟨_, h⟩ => Bool.false_ne_true (h.symm.trans hreq)

theorem exec_rAckNone_not_asked (hst : s.rx.st = .ack) (hreq : s.rx.ackreq = false) :
    exec .rAckNone s = .next (s.rxGoto .gate) := if_pos ⟨hst, hreq⟩

/-- Settles O47: the insert asks for the request and a free slot only. -/
theorem acknowledgmentInserted : Obligations.AcknowledgmentInserted :=
  fun _ _ _ hst hbuf hlen hbit hspace =>
    ackInsertStep_ack hst (ackreq_of_bit hbuf hlen hbit) (decide_eq_true hspace)

/-- Settles O48: of the acknowledgment's steps the full queue leaves the abort, which asks for the cancellation. -/
theorem acknowledgmentHeldOrAborted : Obligations.AcknowledgmentHeldOrAborted := by
  intro s b t hst hbuf hlen hbit hfull
  have hreq : s.rx.ackreq = true := ackreq_of_bit hbuf hlen hbit
  refine ⟨?held, ?aborted⟩
  case held =>
    intro hcancel i hi
    obtain hi | hi := List.mem_append.mp hi
    · by_cases hack : i ∈ [Instr.rAckInsert, .rAckAbort, .rAckNone]
      · simp only [List.mem_cons, List.not_mem_nil, or_false] at hack
        obtain rfl | rfl | rfl := hack
        · exact ackInsertStep_no_space (hasSpace_of_full hfull)
        · exact ackAbortStep_not_cancelled hcancel
        · exact exec_rAckNone_asked hreq
      · exact exec_rxStep_ack hst hi hack
    · obtain rfl := List.mem_singleton.mp hi
      rfl
  case aborted => exact ackAbortStep_ack hst hreq (decide_eq_true hfull)

/-- Settles O49: a frame without a byte 0, or whose bit 7 is clear, asks for none. -/
theorem noAcknowledgmentAsked : Obligations.NoAcknowledgmentAsked := by
  rintro s hst (hlen | ⟨b, t, hbuf, hbit⟩)
  · exact exec_rAckNone_not_asked hst (ackreq_of_len_zero hlen)
  · exact exec_rAckNone_not_asked hst (by rw [ackreq_cons hbuf, hbit, Bool.and_false])

/-! ### The gate and the close (R151, R153) -/

theorem exec_rGate_dispatch (hst : s.rx.st = .gate) (hok : s.rx.ok = true) (hlen : 1 ≤ s.rx.len.toNat) :
    exec .rGate s = .next s.gateSet.startDispatch := (if_pos hst).trans (if_pos ⟨hok, hlen⟩)

theorem exec_rGate_hunt (hst : s.rx.st = .gate) (hno : ¬ (s.rx.ok = true ∧ 1 ≤ s.rx.len.toNat)) :
    exec .rGate s = .next (s.gateSet.rxGoto .hunt) := (if_pos hst).trans (if_neg hno)

/-- Settles O50: the gate is set on both ways out, and the registry decides where a dispatch starts. -/
theorem gateSetAndDispatchStarts : Obligations.GateSetAndDispatchStarts := by
  refine fun s hst => ⟨?dispatch, exec_rGate_hunt hst⟩
  intro hok hlen
  rw [exec_rGate_dispatch hst hok hlen, State.startDispatch, RxRegs.startDispatch]
  simp only [State.gateSet, List.isEmpty_iff]

theorem exec_rClose_closed (hread : s.rx.st.reading = true) (hx : s.recv = some .closed) :
    exec .rClose s = .next (s.rxClose .closed) := by
  simp only [exec, execRClose, hread, hx]

theorem exec_rClose_rdErr (hread : s.rx.st.reading = true) (hx : s.recv = some .rdErr) :
    exec .rClose s = .next (s.rxClose .readError) := by
  simp only [exec, execRClose, hread, hx]

/-- Settles O54: CLOSED and RD_ERR stop the Receiver alike; a closed stream's CLOSED leaves the wire. -/
theorem receiverCloses : Obligations.ReceiverCloses := by
  intro s hst cut
  obtain ⟨hread, hcut⟩ : s.rx.st.reading = true ∧ ∀ reason, s.rx.closeEvents reason = cut ++ [.rxStopped reason] := by
    simp only [RxRegs.closeEvents, cut]
    simp only [List.mem_cons, List.not_mem_nil, or_false] at hst
    obtain hst | hst | hst | hst | hst := hst <;> rw [hst] <;> exact ⟨rfl, fun _ => rfl⟩
  have hclose (reason : RxStopReason) : s.rxClose reason =
      { s.consumeSymbol with
        ev := s.ev ++ cut ++ [.rxStopped reason], rx := { s.rx with st := .stopped } } := by
    simp [State.rxClose, State.raise, State.rxGoto, hcut]
  refine ⟨?closedStream, ?closed, ?error⟩
  case closedStream =>
    intro hclosed
    rw [exec_rClose_closed hread (recv_closed hclosed), hclose, consumeSymbol_closed hclosed]
  case closed =>
    intro rest hopen hwire
    rw [exec_rClose_closed hread (recv_cons hopen hwire), hclose, consumeSymbol_cons hopen hwire]
  case error =>
    intro rest hopen hwire
    rw [exec_rClose_rdErr hread (recv_cons hopen hwire), hclose, consumeSymbol_cons hopen hwire]

end Sys2Proof.Machine
end

section
/-! Settles O55 (44_receiver R156). The Receiver's run over the bytes of a frame follows the reference decoder's recursion:
the hunt that of `huntFlag`, the data bytes that of `readData`, each with the registers it leaves. -/

namespace Sys2Proof.Machine

/-! ### Runs of the Receiver -/

section
variable {s t : State} {b : Byte} {i : Instr}

theorem receive_add (n k : Nat) (s : State) : receive (n + k) s = receive k (receive n s) := by
  induction n generalizing s with
  | zero => rw [Nat.zero_add, receive]
  | succ n ih =>
    have hstop (hnone : readInstr s = none) : receive k s = s := by cases k <;> simp only [receive, hnone]
    rw [Nat.succ_add]
    cases hi : readInstr s with
    | none => simp only [receive, hi, hstop]
    | some i =>
      obtain ⟨t, e⟩ := everyInstructionAnswersNext i s
      simp only [receive, hi, e, ih]

theorem receive_one (hi : readInstr s = some i) (e : exec i s = .next t) : receive 1 s = t := by
  simp only [receive, hi, e]

theorem readInstr_hunt (hst : s.rx.st = .hunt) (hb : s.recvByte = some b) :
    readInstr s = some (if b = 0x7E then .rHuntFlag else .rHuntSkip) := by simp only [readInstr, hst, hb]

theorem readInstr_len (hst : s.rx.st = .len) (hb : s.recvByte = some b) : readInstr s = some .rLen := by
  simp only [readInstr, hst, hb]

theorem readInstr_data (hst : s.rx.st = .data) (hesc : s.rx.esc = false) (hb : s.recvByte = some b) :
    readInstr s = some (if b = 0x7D then .rDataEsc else .rDataPlain) := by
  simp [readInstr, hst, hesc, hb]

theorem readInstr_pair (hst : s.rx.st = .data) (hesc : s.rx.esc = true) (hb : s.recvByte = some b) :
    readInstr s = some (if (unstuff2 b).2 then .rEscOk else .rEscBad) := by
  simp [readInstr, hst, hesc, hb]

theorem readInstr_cs1 (hst : s.rx.st = .cs1) (hb : s.recvByte = some b) : readInstr s = some .rCs1 := by
  simp only [readInstr, hst, hb]

theorem readInstr_cs2 (hst : s.rx.st = .cs2) (hb : s.recvByte = some b) : readInstr s = some .rCs2 := by
  simp only [readInstr, hst, hb]

end

/-! ### The Receiver's registers and the bytes it has yet to read -/

/-- The state `s` with registers `r` in the Receiver and the bytes `w`, then `tail`, on the wire. -/
def State.reading (s : State) (tail : List Symbol) (r : RxRegs LID) (w : List Byte) : State :=
  { s with rx := r, wireIn := w.map .byte ++ tail }

theorem State.reading_self {s : State} {tail : List Symbol} {w : List Byte} (hwire : s.wireIn = w.map .byte ++ tail) :
    s.reading tail s.rx w = s := by rw [State.reading, ← hwire]

section
variable {s : State} {tail : List Symbol} {r : RxRegs LID} {b x : Byte} {w : List Byte}

theorem reading_recvByte (hopen : s.streamOpen = true) : (s.reading tail r (b :: w)).recvByte = some b :=
  recvByte_cons hopen rfl

theorem reading_consumeSymbol (hopen : s.streamOpen = true) :
    (s.reading tail r (b :: w)).consumeSymbol = s.reading tail r w := consumeSymbol_cons hopen rfl

theorem huntFlag_skip (hne : b ≠ 0x7E) : huntFlag (b :: w) = huntFlag w := if_neg hne

variable (hopen : s.streamOpen = true)
include hopen

/-! ### One byte read -/

/-- A step that reads the byte and writes the Receiver's registers. -/
theorem receive_reading {i : Instr} {r' : RxRegs LID} (hi : readInstr (s.reading tail r (b :: w)) = some i)
    (e : exec i (s.reading tail r (b :: w)) = .next { (s.reading tail r (b :: w)).consumeSymbol with rx := r' }) :
    receive 1 (s.reading tail r (b :: w)) = s.reading tail r' w := by
  rw [receive_one hi e, reading_consumeSymbol hopen]
  rfl

theorem receive_hunt_flag (hst : r.st = .hunt) :
    receive 1 (s.reading tail r (0x7E :: w)) = s.reading tail { r with st := .len } w := by
  have hb : (s.reading tail r (0x7E :: w)).recvByte = some 0x7E := reading_recvByte hopen
  rw [receive_one (readInstr_hunt hst hb) (exec_rHuntFlag_flag hst hb), reading_consumeSymbol hopen]
  rfl

theorem receive_hunt_skip (hst : r.st = .hunt) (hne : b ≠ 0x7E) :
    receive 1 (s.reading tail r (b :: w)) = s.reading tail r w := by
  have hb : (s.reading tail r (b :: w)).recvByte = some b := reading_recvByte hopen
  have hi := (readInstr_hunt hst hb).trans (congrArg some (if_neg hne))
  rw [receive_one hi (exec_rHuntSkip_other hst hb hne), reading_consumeSymbol hopen]

theorem receive_len (hst : r.st = .len) :
    receive 1 (s.reading tail r (b :: w)) = s.reading tail (r.startFrame b) w :=
  receive_reading hopen (readInstr_len hst (reading_recvByte hopen)) (exec_rLen_byte hst (reading_recvByte hopen))

theorem receive_data_plain (hst : r.st = .data) (hesc : r.esc = false) (hne : b ≠ 0x7D) :
    receive 1 (s.reading tail r (b :: w)) = s.reading tail (r.accept b) w :=
  receive_reading hopen
    ((readInstr_data hst hesc (reading_recvByte hopen)).trans (congrArg some (if_neg hne)))
    (exec_rDataPlain_plain hst hesc (reading_recvByte hopen) hne)

theorem receive_data_escape (hst : r.st = .data) (hesc : r.esc = false) :
    receive 1 (s.reading tail r (0x7D :: w)) = s.reading tail { r with esc := true } w :=
  receive_reading hopen (readInstr_data hst hesc (reading_recvByte hopen))
    (exec_rDataEsc_escape hst hesc (reading_recvByte hopen))

/-- The second byte of a pair is accepted as the byte it stands for, and an illegal one marks the frame (R142, R143). -/
theorem receive_data_code (hst : r.st = .data) (hesc : r.esc = true) :
    receive 1 (s.reading tail r (x :: w)) =
      s.reading tail
        (RxRegs.accept { r with esc := false, serr := r.serr || !(unstuff2 x).2 } (unstuff2 x).1) w := by
  have hb : (s.reading tail r (x :: w)).recvByte = some x := reading_recvByte hopen
  have hi := readInstr_pair hst hesc hb
  cases hok : (unstuff2 x).2 with
  | true =>
    rw [hok] at hi
    rw [receive_reading hopen hi (exec_rEscOk_legal hst hesc hb hok), Bool.not_true, Bool.or_false]
    rfl
  | false =>
    rw [hok] at hi
    rw [receive_reading hopen hi (exec_rEscBad_illegal hst hesc hb hok), Bool.not_false, Bool.or_true]
    rfl

theorem receive_cs1 (hst : r.st = .cs1) :
    receive 1 (s.reading tail r (b :: w)) = s.reading tail { r with c1 := b, st := .cs2 } w :=
  receive_reading hopen (readInstr_cs1 hst (reading_recvByte hopen)) (exec_rCs1_byte hst (reading_recvByte hopen))

theorem receive_cs2 (hst : r.st = .cs2) :
    receive 1 (s.reading tail r (b :: w)) = (s.reading tail r (b :: w)).finishFrame b :=
  receive_one (readInstr_cs2 hst (reading_recvByte hopen)) (cs2Step_byte hst (reading_recvByte hopen))

theorem receive_pair (hst : r.st = .data) (hesc : r.esc = false) :
    receive 2 (s.reading tail r (0x7D :: x :: w)) =
      s.reading tail (RxRegs.accept { r with serr := r.serr || !(unstuff2 x).2 } (unstuff2 x).1) w := by
  rw [receive_add 1 1, receive_data_escape hopen hst hesc, receive_data_code (r := { r with esc := true }) hopen hst rfl,
    ← hesc]

/-! ### The hunt and the length byte -/

/-- The hunt of the reference decoder, and the Receiver's over the same bytes (R137, R138). -/
theorem receive_huntFlag {t : List Byte} (hst : r.st = .hunt) (h : huntFlag w = some t) :
    ∃ used, w = used ++ t ∧
      receive used.length (s.reading tail r w) = s.reading tail { r with st := .len } t := by
  induction w with
  | nil => cases h
  | cons b w ih =>
    by_cases hb : b = 0x7E
    · subst hb
      obtain rfl : w = t := Option.some.inj h
      exact ⟨[0x7E], rfl, receive_hunt_flag hopen hst⟩
    · obtain ⟨used, hw, hrun⟩ := ih ((huntFlag_skip hb).symm.trans h)
      refine ⟨b :: used, by rw [hw, List.cons_append], ?_⟩
      rw [List.length_cons, Nat.add_comm, receive_add, receive_hunt_skip hopen hst hb, hrun]

end

/-! ### The data bytes -/

/-- The registers between two logical bytes of a frame's data, `n` of which are yet to come (R139, R144). -/
structure RxRegs.Expects (r : RxRegs LID) (n : Nat) : Prop where
  st : r.st = if n = 0 then .cs1 else .data
  length : r.buf.length + n = r.len.toNat
  esc : r.esc = false
  sums : r.sumsOk

section
variable {r : RxRegs LID} {n : Nat}

theorem RxRegs.Expects.payloadOk (h : r.Expects 0) : r.payloadOk := ⟨h.length, h.esc, h.sums⟩

theorem expects_startFrame (r : RxRegs LID) (b : Byte) : (r.startFrame b).Expects b.toNat where
  st := by
    have hzero : b = 0 ↔ b.toNat = 0 := BitVec.toNat_inj.symm
    simp only [RxRegs.startFrame, hzero]
  length := Nat.zero_add _
  esc := rfl
  sums := rfl

theorem RxRegs.Expects.accept (h : r.Expects (n + 1)) (v : Byte) : (r.accept v).Expects n where
  st := by
    have hlast : r.buf.length + 1 = r.len.toNat ↔ n = 0 := by have := h.length; omega
    simp only [RxRegs.accept, hlast]
  length := by
    have := h.length
    simp only [RxRegs.accept, List.length_append, List.length_singleton]
    omega
  esc := h.esc
  sums := by
    rw [RxRegs.sumsOk, RxRegs.accept, List.foldl_append, ← h.sums]
    rfl

/-- The stuffing error is no part of what is yet to come. -/
theorem RxRegs.Expects.setSerr (h : r.Expects n) (e : Bool) : RxRegs.Expects { r with serr := e } n :=
  ⟨h.st, h.length, h.esc, h.sums⟩

end

/-- The data loop of the reference decoder, and the Receiver's over the same bytes (R140 to R144). -/
theorem receive_readData {s : State} {tail : List Symbol} (hopen : s.streamOpen = true) {n : Nat} {w t : List Byte}
    {m : Message} {serr : Bool} (h : readData n w = some (m, serr, t)) {r : RxRegs LID} (hr : r.Expects n) :
    ∃ used r', w = used ++ t ∧ receive used.length (s.reading tail r w) = s.reading tail r' t ∧
      r'.Expects 0 ∧ r'.buf = r.buf ++ m ∧ r'.serr = (r.serr || serr) := by
  induction n, w using readData.induct generalizing m serr t r with
  | case1 w =>
    obtain ⟨rfl, rfl, rfl⟩ : [] = m ∧ false = serr ∧ w = t := by simpa [readData] using h
    exact ⟨[], r, rfl, rfl, hr, (List.append_nil _).symm, (Bool.or_false _).symm⟩
  | case2 n => simp [readData] at h
  | case3 n => simp [readData] at h
  | case4 n x u ih =>
    rw [readData_pair] at h
    obtain ⟨⟨m', serr', t'⟩, hread, hm⟩ := Option.map_eq_some_iff.mp h
    cases hm
    obtain ⟨used, r', rfl, hrun, hr', hbuf, hserr⟩ :=
      ih hread ((hr.setSerr (r.serr || !(unstuff2 x).2)).accept (unstuff2 x).1)
    refine ⟨0x7D :: x :: used, r', rfl, ?_, hr', ?_, ?_⟩
    · rw [List.length_cons, List.length_cons, Nat.add_assoc, Nat.add_comm, receive_add,
        receive_pair hopen hr.st hr.esc, hrun]
    · rw [hbuf, RxRegs.accept, List.append_assoc, List.singleton_append]
    · rw [hserr, ← Bool.or_assoc]; rfl
  | case5 n b u hb ih =>
    rw [readData_plain n hb] at h
    obtain ⟨⟨m', serr', t'⟩, hread, hm⟩ := Option.map_eq_some_iff.mp h
    cases hm
    obtain ⟨used, r', rfl, hrun, hr', hbuf, hserr⟩ := ih hread (hr.accept b)
    refine ⟨b :: used, r', rfl, ?_, hr', ?_, hserr⟩
    · rw [List.length_cons, Nat.add_comm, receive_add, receive_data_plain hopen hr.st hr.esc hb, hrun]
    · rw [hbuf, RxRegs.accept, List.append_assoc, List.singleton_append]

/-! ### A whole frame -/

/-- The parts of a frame that the reference decoder finds (40_codec R95). -/
theorem decodeFrame_eq_some {w rest : List Byte} {m : Message} {ok : Bool} (h : decodeFrame w = some (m, ok, rest)) :
    ∃ (n : Byte) (u : List Byte) (serr : Bool) (c1 c2 : Byte),
      huntFlag w = some (n :: u) ∧ readData n.toNat u = some (m, serr, c1 :: c2 :: rest) ∧
      ok = valid m c1 c2 serr := by
  unfold decodeFrame at h
  split at h
  · cases h
  · cases h
  · next n u hhunt =>
    split at h
    · next hread =>
      cases h
      exact ⟨n, u, _, _, _, hhunt, hread, rfl⟩
    · cases h

/-- Over the bytes of a frame the Receiver runs to the step R_CS2 that completes it, with the registers of a whole
payload. -/
theorem receive_decodeFrame {s : State} {tail : List Symbol} {w rest : List Byte} {m : Message} {ok : Bool}
    (hst : s.rx.st = .hunt) (hopen : s.streamOpen = true) (hwire : s.wireIn = w.map .byte ++ tail)
    (h : decodeFrame w = some (m, ok, rest)) :
    ∃ (r : RxRegs LID) (c2 : Byte),
      receive (w.length - rest.length) s = (s.reading tail r (c2 :: rest)).finishFrame c2 ∧
      r.payloadOk ∧ r.buf = m ∧ r.validity c2 = ok := by
  obtain ⟨n, u, serr, c1, c2, hhunt, hread, rfl⟩ := decodeFrame_eq_some h
  obtain ⟨skipped, rfl, hskip⟩ := receive_huntFlag (tail := tail) hopen hst hhunt
  obtain ⟨data, r, rfl, hdata, hr, hbuf, hserr⟩ :=
    receive_readData (tail := tail) hopen hread (expects_startFrame { s.rx with st := .len } n)
  obtain rfl : r.buf = m := hbuf
  obtain rfl : r.serr = serr := hserr
  refine ⟨{ r with c1 := c1, st := .cs2 }, c2, ?run, hr.payloadOk, rfl, ?valid⟩
  case run =>
    have hcount : (skipped ++ n :: (data ++ c1 :: c2 :: rest)).length - rest.length =
        skipped.length + (1 + (data.length + (1 + 1))) := by
      simp only [List.length_append, List.length_cons]
      omega
    calc receive _ s = receive _ (s.reading tail s.rx _) := by rw [State.reading_self hwire]
      _ = _ := by rw [hcount, receive_add, hskip, receive_add, receive_len hopen rfl, receive_add, hdata, receive_add,
          receive_cs1 hopen hr.st, receive_cs2 hopen rfl]
  case valid => exact RxRegs.payloadOk.validity_eq_valid (r := { r with c1 := c1, st := .cs2 }) hr.payloadOk c2

/-- Settles O55: the run ends in R_CS2, which changes the Receiver, the wire and the events only; a message's frame is
decoded to the message, valid. -/
theorem receiverComputesDecodeFrame : Obligations.ReceiverComputesDecodeFrame := by
  refine ⟨?decodes, ?message⟩
  case decodes =>
    intro s w rest m ok tail hst hopen hwire h t
    obtain ⟨r, c2, hrun, hp, rfl, rfl⟩ := receive_decodeFrame hst hopen hwire h
    have ht : t = (s.reading tail r (c2 :: rest)).finishFrame c2 := hrun
    obtain ⟨hlen, -, -⟩ := hp
    simp [ht, State.reading, hopen, hlen]
  case message =>
    intro s m tail hst hopen hm hwire t
    have h : decodeFrame (encodeFrame m) = some (m, true, []) := by simpa using decodeFrameRoundTrip m [] hm
    obtain ⟨r, c2, hrun, -, rfl, hok⟩ := receive_decodeFrame hst hopen hwire h
    have ht : t = (s.reading tail r [c2]).finishFrame c2 := hrun
    simp [ht, State.reading, hopen, hok]

end Sys2Proof.Machine
end

section
/-! Settles O31 (45_dispatch R158, R159). The registry decides what an accepted SUBSCRIBE finds; each finding has its
response. -/

namespace Sys2Proof.Machine

variable {s : State} {h : Nat} {p : HostPort} {lid : LID}

/-! ### What SUBSCRIBE finds -/

theorem subscribeTo_of_mem {lmax : Nat} {reg : List LID} (hmem : lid ∈ reg) : subscribeTo lmax reg lid = .present :=
  if_pos hmem

theorem subscribeTo_of_full {lmax : Nat} {reg : List LID} (hnew : lid ∉ reg) (hfull : reg.length = lmax) :
    subscribeTo lmax reg lid = .full := (if_neg hnew).trans (if_pos hfull)

theorem subscribeTo_of_room {lmax : Nat} {reg : List LID} (hnew : lid ∉ reg) (hroom : reg.length ≠ lmax) :
    subscribeTo lmax reg lid = .added (reg ++ [lid]) := (if_neg hnew).trans (if_neg hroom)

/-! ### The commands at an idle port -/

theorem exec_subscribe_not_connected (hi : s.idleAt h p) (hconn : s.conn ≠ .connected) :
    exec (.subscribe h lid) s =
      .next ((s.answered h p .refused .notConnected none).logged [.cmdRefused h 0x5 .notConnected]) := by
  simp only [exec, execSubscribe, issue_idle (idle_port hi), ne_eq, hconn, not_false_eq_true, if_true,
    refuse_eq hi.1]

theorem exec_subscribe_present (hi : s.idleAt h p) (hconn : s.conn = .connected)
    (hfound : subscribeTo s.cfg.lmax s.reg lid = .present) :
    exec (.subscribe h lid) s = .next (s.answered h p .ok .none none) := by
  simp only [exec, execSubscribe, issue_idle (idle_port hi), hconn, ne_eq, not_true, if_false, hfound,
    respond_eq hi.1, okResponse]

theorem exec_subscribe_full (hi : s.idleAt h p) (hconn : s.conn = .connected)
    (hfound : subscribeTo s.cfg.lmax s.reg lid = .full) :
    exec (.subscribe h lid) s =
      .next ((s.answered h p .refused .regFull none).logged [.cmdRefused h 0x5 .regFull]) := by
  simp only [exec, execSubscribe, issue_idle (idle_port hi), hconn, ne_eq, not_true, if_false, hfound,
    refuse_eq hi.1]

/-- The response to a command that writes the registry. -/
theorem respond_reg_eq (hi : s.idleAt h p) (reg : List LID) :
    State.respond { s with reg := reg } h okResponse = State.answered { s with reg := reg } h p .ok .none none :=
  respond_eq (s := { s with reg := reg }) hi.1 okResponse

theorem exec_subscribe_added (hi : s.idleAt h p) (hconn : s.conn = .connected) {reg : List LID}
    (hfound : subscribeTo s.cfg.lmax s.reg lid = .added reg) :
    exec (.subscribe h lid) s = .next (State.answered { s with reg := reg } h p .ok .none none) := by
  rw [← respond_reg_eq hi]
  simp only [exec, execSubscribe, issue_idle (idle_port hi), hconn, ne_eq, not_true, if_false, hfound]

theorem exec_unsubscribe (hi : s.idleAt h p) :
    exec (.unsubscribe h lid) s =
      .next (State.answered { s with reg := unsubscribeFrom s.reg lid } h p .ok .none none) := by
  rw [← respond_reg_eq hi]
  simp only [exec, execUnsubscribe, issue_idle (idle_port hi)]

/-- Settles O31: the clauses are the three findings, the refusal without a connection, and UNSUBSCRIBE, which reads
neither the connection nor whether the id is registered. -/
theorem subscribeUnsubscribe : Obligations.SubscribeUnsubscribe := by
  intro s h p lid hi
  refine ⟨exec_subscribe_not_connected hi, ?present, ?full, ?added, exec_unsubscribe hi⟩
  case present => exact fun hconn hmem => exec_subscribe_present hi hconn (subscribeTo_of_mem hmem)
  case full => exact fun hconn hnew hfull => exec_subscribe_full hi hconn (subscribeTo_of_full hnew hfull)
  case added => exact fun hconn hnew hroom => exec_subscribe_added hi hconn (subscribeTo_of_room hnew hroom)

end Sys2Proof.Machine
end

section
/-! Settles O52 and O53 (45_dispatch R161 to R166). One equation per step that ends a delivery; a delivery is the listener's
step and that step, and a dispatch is one delivery after the other. -/

namespace Sys2Proof.Machine

variable {s : State} {b : Byte} {t : Message} {n : Notification LID}

/-! ### The steps that end a delivery (R161 to R164) -/

theorem exec_rDeliverOk_accepted (ho : s.offer = some n) (hans : s.lisAns = some .accept) :
    exec .rDeliverOk s = .next s.advance := by simp only [exec, execRDeliverOk, ho, hans]

theorem exec_rDeliverFault_faulted (ho : s.offer = some n) (hans : s.lisAns = some .fault) :
    exec .rDeliverFault s = .next (s.raise [.listenerFault n.lid n.type6]).advance := by
  simp only [exec, execRDeliverFault, ho, hans]

theorem exec_rDeliverOk_unanswered (hnone : s.lisAns = none) : exec .rDeliverOk s = .next s := by
  cases ho : s.offer <;> simp only [exec, execRDeliverOk, ho, hnone, hold]

theorem exec_rDeliverFault_unanswered (hnone : s.lisAns = none) : exec .rDeliverFault s = .next s := by
  cases ho : s.offer <;> simp only [exec, execRDeliverFault, ho, hnone, hold]

theorem RxRegs.advance_dispatch {r : RxRegs LID} (hst : r.st = .dispatch) :
    r.advance = { r with idx := r.idx + 1, st := if r.idx + 1 = r.snap.length then .hunt else .dispatch } := by
  rw [RxRegs.advance, hst]

/-- Settles O52: the answer decides which step is enabled, and both advance the index. -/
theorem deliveryAdvances : Obligations.DeliveryAdvances := by
  intro s b t lid hst hbuf hlid next
  have ho := offer_dispatch hst hbuf hlid
  have hnext : s.rx.advance = next := RxRegs.advance_dispatch hst
  rw [← hnext]
  exact ⟨exec_rDeliverOk_accepted ho, exec_rDeliverFault_faulted ho,
    fun hnone => ⟨exec_rDeliverOk_unanswered hnone, exec_rDeliverFault_unanswered hnone⟩⟩

/-! ### A whole dispatch (R166) -/

/-- The events of listeners that answered so to a frame whose byte 0 is `b`. -/
def faultEvents (b : Byte) (answers : List (LID × ListenerAnswer)) : List (Event LID) :=
  (answers.filter fun a => decide (a.2 = .fault)).map fun a => .listenerFault a.1 (b &&& 0x3F)

theorem faultEvents_append (b : Byte) (xs ys : List (LID × ListenerAnswer)) :
    faultEvents b (xs ++ ys) = faultEvents b xs ++ faultEvents b ys := by
  rw [faultEvents, List.filter_append, List.map_append]; rfl

/-- The state after the next listeners of the snapshot were offered the payload `b :: t` and answered so. -/
def State.served (s : State) (b : Byte) (t : Message) (answers : List (LID × ListenerAnswer)) : State :=
  { s with
    notes := s.notes ++ answers.map fun a => ({ lid := a.1, type6 := b &&& 0x3F, payload := b :: t }, a.2)
    ev := s.ev ++ faultEvents b answers
    rx :=
      { s.rx with
        idx := s.rx.idx + answers.length
        st := if s.rx.idx + answers.length = s.rx.snap.length then .hunt else .dispatch }
    lisAns := none }

theorem State.served_served (s : State) (b : Byte) (t : Message) (xs ys : List (LID × ListenerAnswer)) :
    (s.served b t xs).served b t ys = s.served b t (xs ++ ys) := by
  simp [State.served, faultEvents_append, Nat.add_assoc]

/-- Between two deliveries of a dispatch of the payload `b :: t`: the listeners `lids` are yet to be offered it. -/
structure State.Serving (s : State) (b : Byte) (t : Message) (lids : List LID) : Prop where
  st : s.rx.st = if s.rx.idx = s.rx.snap.length then .hunt else .dispatch
  buf : s.rx.buf = b :: t
  remaining : s.rx.snap.drop s.rx.idx = lids
  unanswered : s.lisAns = none

section
variable {lid : LID} {lids : List LID}

/-- The state after no delivery is the state before it. -/
theorem State.Serving.served_nil (hs : s.Serving b t lids) : s.served b t [] = s := by
  simp [State.served, faultEvents, ← hs.st, ← hs.unanswered]

theorem State.Serving.next_listener (hs : s.Serving b t (lid :: lids)) : s.rx.snap[s.rx.idx]? = some lid := by
  rw [← List.head?_drop, hs.remaining, List.head?_cons]

theorem State.Serving.dispatching (hs : s.Serving b t (lid :: lids)) : s.rx.st = .dispatch := by
  obtain ⟨hlt, -⟩ := List.getElem?_eq_some_iff.mp hs.next_listener
  rw [hs.st, if_neg (Nat.ne_of_lt hlt)]

theorem State.Serving.served_one (hs : s.Serving b t (lid :: lids)) (ans : ListenerAnswer) :
    (s.served b t [(lid, ans)]).Serving b t lids where
  st := rfl
  buf := hs.buf
  remaining := by
    calc s.rx.snap.drop (s.rx.idx + 1) = (s.rx.snap.drop s.rx.idx).tail := List.tail_drop.symm
      _ = lids := by rw [hs.remaining, List.tail_cons]
  unanswered := rfl

/-- One delivery: the listener takes the notification and answers, and the Receiver uses the answer up. -/
theorem runAll_delivery (hs : s.Serving b t (lid :: lids)) (ans : ListenerAnswer) (later : List Instr) :
    runAll (.notify lid ans :: deliverInstr ans :: later) s = runAll later (s.served b t [(lid, ans)]) := by
  obtain ⟨hnotify, -⟩ := listenerNotified s b t lid lid ans hs.dispatching hs.buf hs.next_listener hs.unanswered
  obtain ⟨haccept, hfault, -⟩ := deliveryAdvances
    { s with
      notes := s.notes ++ [({ lid := lid, type6 := b &&& 0x3F, payload := b :: t }, ans)]
      lisAns := some ans }
    b t lid hs.dispatching hs.buf hs.next_listener
  rw [runAll_cons hnotify]
  cases ans with
  | accept =>
    rw [deliverInstr, runAll_cons (haccept rfl)]
    simp [State.served, faultEvents]
  | fault => exact runAll_cons (hfault rfl) later

end

/-- The steps of a dispatch serve the listeners that are left, one after the other. -/
theorem runAll_deliverSteps {answers : List (LID × ListenerAnswer)} (hs : s.Serving b t (answers.map Prod.fst)) :
    runAll (deliverSteps answers) s = .next (s.served b t answers) := by
  induction answers generalizing s with
  | nil =>
    rw [hs.served_nil]
    rfl
  | cons a answers ih =>
    calc runAll (.notify a.1 a.2 :: deliverInstr a.2 :: deliverSteps answers) s
        = runAll (deliverSteps answers) (s.served b t [a]) := runAll_delivery hs a.2 _
      _ = .next ((s.served b t [a]).served b t answers) := ih (hs.served_one a.2)
      _ = .next (s.served b t (a :: answers)) := by rw [State.served_served]; rfl

/-- At the start of a dispatch the whole snapshot is yet to be served. -/
theorem serving_of_start (hst : s.rx.st = .dispatch) (hbuf : s.rx.buf = b :: t) (hidx : s.rx.idx = 0)
    (hnone : s.lisAns = none) (hsnap : s.rx.snap ≠ []) : s.Serving b t s.rx.snap where
  st := by rw [hst, hidx, if_neg (List.length_pos_iff.mpr hsnap).ne]
  buf := hbuf
  remaining := by rw [hidx, List.drop_zero]
  unanswered := hnone

/-- Settles O53: the steps serve the whole snapshot, after which the index is its length. -/
theorem dispatchReachesEveryListener : Obligations.DispatchReachesEveryListener := by
  intro s b t answers hst hbuf hidx hnone hne hsnap
  have hstart : s.Serving b t (answers.map Prod.fst) :=
    hsnap ▸ serving_of_start hst hbuf hidx hnone (by simpa [hsnap] using hne)
  have hend : s.rx.idx + answers.length = s.rx.snap.length := by rw [hidx, hsnap, List.length_map, Nat.zero_add]
  exact ⟨_, runAll_deliverSteps hstart, rfl, rfl, if_pos hend, rfl, rfl, rfl, rfl, rfl⟩

end Sys2Proof.Machine
end

section
/-! Settles O22, O25, O27, O29, O33 and O34 (46_host_ops R167 to R169, R173, R174, R176 to R178, R182). A busy or absent port
holds whatever the command. At an idle port the checks of an issue step have one equation for each of their ends, and a
command is its equation with the port's registers written out. -/

namespace Sys2Proof.Machine

variable {s : State} {h d : Nat} {p : HostPort} {c : HostCmd} {m : Message} {op : BitVec 4} {k : State → State} {i : Instr}

/-! ### The issue step at a busy or absent port (R167) -/

theorem portIdle_eq_false (hbusy : ∀ p, s.host[h]? = some p → p.cmd ≠ none) : s.portIdle h = false := by
  unfold State.portIdle
  split
  · next p hp => exact Option.isNone_eq_false_iff.mpr (Option.isSome_iff_ne_none.mpr (hbusy p hp))
  · rfl

/-- Each row that `issuePort` names is an issue step at that port, and an issue step holds where the port is not idle. -/
theorem exec_busy (hi : issuePort i = some h) (hbusy : s.portIdle h = false) : exec i s = .next s := by
  have hn : ¬ s.portIdle h = true := by simp [hbusy]
  cases i with
  | reserved0 | connect | disconnect | send | sendTimed | subscribe | unsubscribe | setClock | querySize | queryFull
  | reservedA | reservedB | reservedC | reservedD | reservedE | reservedF | size | isFull =>
    cases hi
    exact if_neg hn
  | append | appendTimed | prepend | take | flag | escape | esc7E | esc7D | escIllegal | frame | ackreq | typeBareAck
  | typeExempt | notify | tReady | tTimeout | tCancel | tTake | tEmit | tWrerr | tEnd | rHuntSkip | rHuntFlag | rLen
  | rDataPlain | rDataEsc | rEscOk | rEscBad | rCs1 | rCs2 | rAckInsert | rAckHold | rAckAbort | rAckNone | rGate
  | rDeliverOk | rDeliverFault | rClose | disconnectComplete | insertRelease => cases hi

/-- Settles O34: every row of the list is an issue step at port `h`, which is not idle. -/
theorem busyPortHolds : Obligations.BusyPortHolds := by
  intro s h hbusy msg tMs lid year month day hour minute dow i hi
  have hport : issuePort i = some h := by
    revert i
    simp only [List.forall_mem_cons, List.not_mem_nil, false_imp_iff, implies_true, and_true]
    exact ⟨rfl, rfl, rfl, rfl, rfl, rfl, rfl, rfl, rfl, rfl, rfl, rfl, rfl, rfl, rfl, rfl, rfl, rfl⟩
  exact exec_busy hport (portIdle_eq_false hbusy)

/-! ### The reserved ops (R182) -/

theorem reservedCommand_refuses (hi : s.idleAt h p) (op : BitVec 4) :
    reservedCommand h op s =
      .next ((s.answered h p .refused .reservedOp none).logged [.cmdRefused h op .reservedOp]) := by
  rw [reservedCommand, issue_idle (idle_port hi), refuse_eq hi.1]

/-- Settles O33: the seven rows are one command under seven ops. -/
theorem reservedOpsRefused : Obligations.ReservedOpsRefused := by
  intro s h p hi
  simp only [List.forall_mem_cons, List.not_mem_nil, false_imp_iff, implies_true, and_true]
  have hrefuses := reservedCommand_refuses hi
  exact ⟨hrefuses _, hrefuses _, hrefuses _, hrefuses _, hrefuses _, hrefuses _, hrefuses _⟩

/-! ### CONNECT (R168, R169) -/

theorem exec_connect (hi : s.idleAt h p) :
    exec (.connect h) s =
      .next (if s.conn = .disconnected then s.connect.respond h okResponse else s.refuse h 0x1 .alreadyConnected) :=
  if_pos (idle_port hi)

/-- Settles O22: the connection state decides between the start of a connection and the refusal. -/
theorem connectStartsConnection : Obligations.ConnectStartsConnection := by
  intro s h p hi
  refine ⟨fun hconn => ?starts, fun hconn => ?refused⟩
  case starts =>
    rw [exec_connect hi, if_pos hconn, respond_eq (s := s.connect) hi.1]
    rfl
  case refused => rw [exec_connect hi, if_neg hconn, refuse_eq hi.1]

/-! ### The checks of SEND, SEND_TIMED and SET_CLOCK (R174) -/

theorem sendChecks_not_connected (hp : s.host[h]? = some p) (hconn : s.conn ≠ .connected) :
    s.sendChecks h op m k = (s.answered h p .refused .notConnected none).logged [.cmdRefused h op .notConnected] := by
  rw [State.sendChecks, if_pos hconn, refuse_eq hp]

theorem sendChecks_too_long (hp : s.host[h]? = some p) (hconn : s.conn = .connected) (hlong : 255 < m.length) :
    s.sendChecks h op m k = (s.answered h p .refused .msgTooLong none).logged [.cmdRefused h op .msgTooLong] := by
  rw [State.sendChecks, if_neg (not_not.mpr hconn), if_pos hlong, refuse_eq hp]

theorem sendChecks_pass (hconn : s.conn = .connected) (hm : m.length ≤ 255) : s.sendChecks h op m k = k s := by
  rw [State.sendChecks, if_neg (not_not.mpr hconn), if_neg (Nat.not_lt.mpr hm)]

/-! ### SEND (R173) -/

theorem sendIssue_inserts (hp : s.host[h]? = some p) (hconn : s.conn = .connected) (hm : m.length ≤ 255)
    (hq : s.q.length < s.cfg.qcap) (hs : s.split = false) :
    s.sendIssue h op m c = State.answered { s with q := s.q ++ [m] } h p .ok .none none :=
  (sendChecks_pass hconn hm).trans (insertOrHold_inserts hp m c hq hs)

theorem sendIssue_holds (hp : s.host[h]? = some p) (hconn : s.conn = .connected) (hm : m.length ≤ 255)
    (hn : ¬ (s.q.length < s.cfg.qcap ∧ s.split = false)) : s.sendIssue h op m c = s.executing h p c :=
  (sendChecks_pass hconn hm).trans (insertOrHold_holds hp m c hn)

theorem exec_send (hi : s.idleAt h p) : exec (.send h m) s = .next (s.sendIssue h 0x3 m (.send m)) :=
  if_pos (idle_port hi)

/-- Settles O25: the checks refuse, or the slot and the split bit decide between the insert and the hold. -/
theorem sendQueuesOrHolds : Obligations.SendQueuesOrHolds := by
  intro s h p msg hi
  rw [exec_send hi]
  refine ⟨fun hconn => ?refused, fun hconn hlong => ?tooLong,
    fun hconn hm => ⟨fun hq hs => ?inserts, fun hn => ?holds⟩⟩
  case refused => rw [State.sendIssue, sendChecks_not_connected hi.1 hconn]
  case tooLong => rw [State.sendIssue, sendChecks_too_long hi.1 hconn hlong]
  case inserts => rw [sendIssue_inserts hi.1 hconn hm hq hs]
  case holds => rw [sendIssue_holds hi.1 hconn hm hn]

/-! ### SEND_TIMED (R176) -/

/-- What a port becomes replaces what it was, its deadline included. -/
theorem setDeadline_host_set (s : State) (h d : Nat) (p' : HostPort) :
    (s.setDeadline h d).host.set h p' = s.host.set h p' := by
  refine List.ext_getElem? fun j => ?_
  by_cases hj : h = j <;> simp [List.getElem?_set, hj]

theorem timedInsert_inserts (hp : s.host[h]? = some p) (hq : s.q.length < s.cfg.qcap) (hs : s.split = false) :
    (s.setDeadline h d).insertOrHold h m c =
      State.answered { s with q := s.q ++ [m] } h { p with deadline := d } .ok .none none := by
  rw [insertOrHold_inserts (setDeadline_port hp) m c hq hs]
  simp only [State.answered, setDeadline_host_set]
  rfl

theorem timedInsert_holds (hp : s.host[h]? = some p) (hn : ¬ (s.q.length < s.cfg.qcap ∧ s.split = false)) :
    (s.setDeadline h d).insertOrHold h m c = s.executing h { p with deadline := d } c := by
  rw [insertOrHold_holds (setDeadline_port hp) m c hn]
  simp only [State.executing, setDeadline_host_set]
  rfl

theorem exec_sendTimed (hi : s.idleAt h p) {tMs : Nat} :
    exec (.sendTimed h m tMs) s =
      .next (s.sendChecks h 0x4 m fun u => (u.setDeadline h (u.now + tMs)).insertOrHold h m (.sendTimed m tMs)) :=
  if_pos (idle_port hi)

/-- Settles O27: the checks are those of SEND; what follows them goes on at the port with its deadline set. -/
theorem sendTimedIssues : Obligations.SendTimedIssues := by
  intro s h tMs p msg hi
  rw [exec_sendTimed hi]
  refine ⟨fun hconn => ?refused, fun hconn hlong => ?tooLong,
    fun hconn hm => ⟨fun hq hs => ?inserts, fun hn => ?holds⟩⟩
  case refused => rw [sendChecks_not_connected hi.1 hconn]
  case tooLong => rw [sendChecks_too_long hi.1 hconn hlong]
  case inserts => rw [sendChecks_pass hconn hm, timedInsert_inserts hi.1 hq hs]
  case holds => rw [sendChecks_pass hconn hm, timedInsert_holds hi.1 hn]

/-! ### SET_CLOCK (R177, R178) -/

section
variable {year month day hour minute dow : Nat}

theorem clockFieldsOk_iff :
    clockFieldsOk year month day hour minute dow = true ↔
      2000 ≤ year ∧ year ≤ 2255 ∧ 1 ≤ month ∧ month ≤ 12 ∧ 1 ≤ day ∧ day ≤ 31 ∧ hour ≤ 23 ∧ minute ≤ 59 ∧
        1 ≤ dow ∧ dow ≤ 7 := by
  simp only [clockFieldsOk, decide_eq_true_eq, and_assoc]

theorem exec_setClock (hi : s.idleAt h p) :
    exec (.setClock h year month day hour minute dow) s =
      .next (if clockFieldsOk year month day hour minute dow then
          s.sendIssue h 0x7 (clockMessage year month day hour minute dow)
            (.setClock (clockMessage year month day hour minute dow))
        else if s.conn = .connected then s.refuse h 0x7 .badField
        else s.drawn.refuse h 0x7 s.clockReason) :=
  if_pos (idle_port hi)

theorem clockMessage_fits : (clockMessage year month day hour minute dow).length ≤ 255 :=
  Nat.le_add_left 7 248

/-- The free value is one of the two reasons (log 12). -/
theorem clockReason_cases (s : State) : s.clockReason = .badField ∨ s.clockReason = .notConnected := ite_eq_or_eq ..

end

/-- Settles O29: the field check decides between the SEND of the clock message and a refusal, whose reason is free where
the block is not connected either. -/
theorem setClockQueuesMessage : Obligations.SetClockQueuesMessage := by
  intro s h year month day hour minute dow p hi
  dsimp only
  rw [← clockFieldsOk_iff, exec_setClock hi]
  refine ⟨fun hok hconn => ?refused, fun hok hconn hq hs => ?inserts, fun hok hconn hn => ?holds,
    fun hbad hconn => ?badField, fun hbad hconn => ?free⟩
  case refused => rw [if_pos hok, State.sendIssue, sendChecks_not_connected hi.1 hconn]
  case inserts =>
    rw [if_pos hok, sendIssue_inserts hi.1 hconn clockMessage_fits hq hs]
    rfl
  case holds =>
    rw [if_pos hok, sendIssue_holds hi.1 hconn clockMessage_fits hn]
    rfl
  case badField => rw [if_neg hbad, if_pos hconn, refuse_eq hi.1]
  case free =>
    refine ⟨s.clockReason, clockReason_cases s, ?_⟩
    rw [if_neg hbad, if_neg hconn, refuse_eq (s := s.drawn) hi.1]
    rfl

end Sys2Proof.Machine
end

section
/-! Settles O24 and O30 (46_host_ops R171, R175). Each is a step under one condition, whose effect is said with the ports'
registers. -/

namespace Sys2Proof.Machine

variable {s : State} {h : Nat} {c : HostCmd} {op : InsertOp}

/-- Settles O24: the condition of the step is that of the statement. -/
theorem disconnectCompletes : Obligations.DisconnectCompletes := by
  intro s
  refine ⟨fun hconn htx hrx => ?completes, fun hn => ?holds⟩
  case completes => exact if_pos ⟨hconn, htx, hrx⟩
  case holds => exact if_neg hn

theorem execInsertRelease_eq_if (hc : s.hostCmd h = some c) (hop : c.insertOp? = some op) :
    execInsertRelease h op s =
      if s.conn ≠ .connected then
        .next ((s.respond h (refusedResponse .notConnected)).raise [.deliveryFailure h op.code])
      else hold s := by
  simp only [execInsertRelease, hc, hop, true_and]

/-- Settles O30: the op of the release is that of the command held, so the connection state decides. -/
theorem insertReleasedByDisconnect : Obligations.InsertReleasedByDisconnect := by
  intro s h tMs p m op hp hcmd
  obtain ⟨c, hc, hop⟩ : ∃ c, p.cmd = some c ∧ c.insertOp? = some op := by
    rcases hcmd with ⟨rfl, hc⟩ | ⟨rfl, hc⟩ | ⟨rfl, hc⟩ <;> exact ⟨_, hc, rfl⟩
  have hrelease := execInsertRelease_eq_if (hostCmd_of_cmd hp hc) hop
  refine ⟨fun hconn => ?released, fun hconn => ?holds⟩
  case released =>
    refine hrelease.trans ((if_pos hconn).trans ?_)
    rw [respond_eq hp]
    cases op <;> rfl
  case holds => exact hrelease.trans (if_neg (not_not.mpr hconn))

end Sys2Proof.Machine
end

section
/-! Settles O19 and O23 (46_host_ops R168, R170 to R172, R185). Every instruction keeps the connection state, the stream and
the ports that wait for the completion of a disconnect, or is one of the three that carry the connection on. -/

namespace Sys2Proof.Machine

variable {s t u : State} {h : Nat} {p : HostPort} {k : State → State} {i : Instr}

/-! ### What the other instructions keep -/

/-- A port that holds DISCONNECT is held (46_host_ops R170, R172). -/
def WaitersHeld (s t : State) : Prop :=
  ∀ (h : Nat) (p : HostPort), s.host[h]? = some p → p.cmd = some .disconnect → t.host[h]? = some p

theorem WaitersHeld.refl (s : State) : WaitersHeld s s := fun _ _ hp _ => hp

theorem WaitersHeld.trans (h₁ : WaitersHeld s t) (h₂ : WaitersHeld t u) : WaitersHeld s u :=
  fun h p hp hc => h₂ h p (h₁ h p hp hc) hc

/-- A change of a port that does not wait. -/
theorem WaitersHeld.of_setHost {f : HostPort → HostPort} (hne : s.cmds[h]? ≠ some (some .disconnect))
    (ht : t.host = s.host.modify h f) : WaitersHeld s t := by
  intro j p hp hc
  have hj : h ≠ j := by
    rintro rfl
    exact hne (by rw [State.cmds_getElem?, hp, Option.map_some, hc])
  simp [ht, hj, hp]

/-- What every instruction keeps but CONNECT, DISCONNECT and its completion. -/
structure LinkKept (s t : State) : Prop where
  conn : t.conn = s.conn
  stream : t.streamOpen = s.streamOpen
  waiters : WaitersHeld s t

/-- The registers `LinkKept` reads. -/
def State.link (s : State) : Conn × Bool × List HostPort := (s.conn, s.streamOpen, s.host)

/-- A change of other registers. -/
theorem LinkKept.of_link (ht : t.link = s.link) : LinkKept s t := by
  simp only [State.link, Prod.mk.injEq] at ht
  obtain ⟨hconn, hstream, hhost⟩ := ht
  exact ⟨hconn, hstream, fun j p hp _ => by rw [hhost, hp]⟩

theorem LinkKept.refl (s : State) : LinkKept s s := .of_link rfl

theorem LinkKept.trans (h₁ : LinkKept s t) (h₂ : LinkKept t u) : LinkKept s u :=
  ⟨h₂.conn.trans h₁.conn, h₂.stream.trans h₁.stream, h₁.waiters.trans h₂.waiters⟩

/-- A change of a port that does not wait for a completion. -/
theorem LinkKept.of_setHost {f : HostPort → HostPort} (hne : s.cmds[h]? ≠ some (some .disconnect))
    (ht : t.link = (s.setHost h f).link) : LinkKept s t := by
  simp only [State.link, Prod.mk.injEq] at ht
  obtain ⟨hconn, hstream, hhost⟩ := ht
  exact ⟨hconn, hstream, .of_setHost hne hhost⟩

/-! ### The operations on a port -/

theorem respond_linkKept (hne : s.cmds[h]? ≠ some (some .disconnect)) (r : Response) : LinkKept s (s.respond h r) :=
  .of_setHost hne rfl

theorem refuse_linkKept (hne : s.cmds[h]? ≠ some (some .disconnect)) (op : BitVec 4) (r : Reason) :
    LinkKept s (s.refuse h op r) := .of_setHost hne rfl

theorem setCmd_linkKept (hne : s.cmds[h]? ≠ some (some .disconnect)) (c : HostCmd) : LinkKept s (s.setCmd h c) :=
  .of_setHost hne rfl

theorem insertAndRespond_linkKept (hne : s.cmds[h]? ≠ some (some .disconnect)) (m : Message) :
    LinkKept s (s.insertAndRespond h m) := .of_setHost hne rfl

theorem insertOrHold_linkKept (hne : s.cmds[h]? ≠ some (some .disconnect)) (m : Message) (c : HostCmd) :
    LinkKept s (s.insertOrHold h m c) := by
  rcases insertOrHold_cases s h m c with ⟨-, hc⟩ | hc <;> rw [hc]
  · exact insertAndRespond_linkKept hne m
  · exact setCmd_linkKept hne c

theorem sendChecks_linkKept {op : BitVec 4} {m : Message} (hne : s.cmds[h]? ≠ some (some .disconnect))
    (hk : LinkKept s (k s)) : LinkKept s (s.sendChecks h op m k) := by
  rcases sendChecks_cases s h op m k with ⟨-, hc⟩ | ⟨-, -, hc⟩ | ⟨-, -, hc⟩ <;> rw [hc]
  · exact refuse_linkKept hne op _
  · exact refuse_linkKept hne op _
  · exact hk

theorem sendIssue_linkKept (hne : s.cmds[h]? ≠ some (some .disconnect)) (op : BitVec 4) (m : Message) (c : HostCmd) :
    LinkKept s (s.sendIssue h op m c) := sendChecks_linkKept hne (insertOrHold_linkKept hne m c)

/-! ### The host commands -/

/-- The port that issues a command is idle, so it does not wait for a completion. -/
theorem issue_linkKept (hk : s.cmds[h]? ≠ some (some .disconnect) → LinkKept s (k s)) (e : issue h s k = .next t) :
    LinkKept s t := by
  rcases issue_cases e with rfl | ⟨hidle, rfl⟩
  · exact .refl t
  · exact hk (ne_disconnect_of_portIdle hidle)

theorem reservedCommand_linkKept {op : BitVec 4} (e : reservedCommand h op s = .next t) : LinkKept s t :=
  issue_linkKept (refuse_linkKept · op _) e

theorem sizeQuery_linkKept (e : sizeQuery h s = .next t) : LinkKept s t := issue_linkKept (respond_linkKept · _) e

theorem fullQuery_linkKept (e : fullQuery h s = .next t) : LinkKept s t := issue_linkKept (respond_linkKept · _) e

theorem execSend_linkKept {m : Message} (e : execSend h m s = .next t) : LinkKept s t :=
  issue_linkKept (sendIssue_linkKept · _ m _) e

/-- Setting the deadline leaves the port's command, so the port still does not wait. -/
theorem execSendTimed_linkKept {m : Message} {tMs : Nat} (e : execSendTimed h m tMs s = .next t) : LinkKept s t := by
  refine issue_linkKept (fun hne => sendChecks_linkKept hne ?_) e
  have hset : LinkKept s (s.setDeadline h (s.now + tMs)) := .of_setHost hne rfl
  exact hset.trans (insertOrHold_linkKept (by rwa [State.setDeadline_cmds]) m _)

theorem execSubscribe_linkKept {lid : LID} (e : execSubscribe h lid s = .next t) : LinkKept s t := by
  refine issue_linkKept (fun hne => ?_) e
  split
  · exact refuse_linkKept hne _ _
  · split
    · exact respond_linkKept hne _
    · exact refuse_linkKept hne _ _
    · exact .of_setHost hne rfl

theorem execUnsubscribe_linkKept {lid : LID} (e : execUnsubscribe h lid s = .next t) : LinkKept s t :=
  issue_linkKept (fun hne => .of_setHost hne rfl) e

theorem execSetClock_linkKept {year month day hour minute dow : Nat}
    (e : execSetClock h year month day hour minute dow s = .next t) : LinkKept s t := by
  refine issue_linkKept (fun hne => ?_) e
  split
  · exact sendIssue_linkKept hne _ _ _
  · split
    · exact refuse_linkKept hne _ _
    · exact .of_setHost hne rfl

/-! ### The held inserts -/

theorem execAppend_linkKept {m : Message} (e : execAppend h m s = .next t) : LinkKept s t := by
  rcases execAppend_cases e with rfl | ⟨c, hc, hm, -, -, rfl⟩
  · exact .refl t
  · exact insertAndRespond_linkKept (ne_disconnect_of_hostCmd hc (by rintro rfl; cases hm)) m

theorem execAppendTimed_linkKept {m : Message} {tMs : Nat} (e : execAppendTimed h m tMs s = .next t) : LinkKept s t := by
  rcases execAppendTimed_cases e with rfl | ⟨hc, -, ⟨-, rfl⟩ | ⟨-, -, rfl⟩⟩
  · exact .refl t
  · exact insertAndRespond_linkKept (ne_disconnect_of_hostCmd hc nofun) m
  · exact .of_setHost (ne_disconnect_of_hostCmd hc nofun) rfl

theorem execInsertRelease_linkKept {op : InsertOp} (e : execInsertRelease h op s = .next t) : LinkKept s t := by
  rcases execInsertRelease_cases e with rfl | ⟨c, hc, hop, -, rfl⟩
  · exact .refl t
  · exact .of_setHost (ne_disconnect_of_hostCmd hc (by rintro rfl; cases hop)) rfl

/-! ### The steps of the loops -/

theorem takeStep_linkKept (e : takeStep s = .next t) : LinkKept s t := by
  rcases takeStep_cases e with rfl | ⟨m, rest, -, -, -, rfl⟩ <;> exact .of_link rfl

theorem ackInsertStep_linkKept (e : ackInsertStep s = .next t) : LinkKept s t := by
  rcases ackInsertStep_cases e with rfl | ⟨-, -, -, rfl⟩ <;> exact .of_link rfl

theorem ackAbortStep_linkKept (e : ackAbortStep s = .next t) : LinkKept s t := by
  rcases ackAbortStep_cases e with rfl | ⟨-, -, -, -, rfl⟩ <;> exact .of_link rfl

theorem cs2Step_linkKept (e : cs2Step s = .next t) : LinkKept s t := by
  rcases cs2Step_cases e with rfl | ⟨b, -, -, rfl⟩ <;> exact .of_link (by simp [State.link])

/-! ### What each instruction does to the connection -/

/-- What an instruction does to the connection state, the stream and the ports that wait (46_host_ops R185). -/
inductive LinkEffect (i : Instr) (s t : State) : Prop
  | kept (hkept : LinkKept s t)
  | connects (hi : ∃ h, i = .connect h) (hfrom : s.conn = .disconnected) (hto : t.conn = .connected)
      (hopen : t.streamOpen = true) (hheld : WaitersHeld s t)
  | closes (hi : ∃ h, i = .disconnect h) (hfrom : s.conn = .connected) (hto : t.conn = .closing)
      (hheld : WaitersHeld s t)
  | completes (hi : i = .disconnectComplete) (hfrom : s.conn = .closing) (htx : s.tx.st = .stopped)
      (hrx : s.rx.st = .stopped) (hto : t.conn = .disconnected) (hstream : t.streamOpen = s.streamOpen)

/-- A change of registers that the effects do not speak of. -/
theorem LinkEffect.of_link (ht : t.link = s.link) : LinkEffect i s t := .kept (.of_link ht)

theorem execConnect_linkEffect (e : execConnect h s = .next t) : LinkEffect (.connect h) s t := by
  rcases issue_cases e with rfl | ⟨hidle, rfl⟩
  · exact .kept (.refl t)
  · have hne := ne_disconnect_of_portIdle hidle
    split
    · next hconn => exact .connects ⟨h, rfl⟩ hconn rfl rfl (.of_setHost hne rfl)
    · exact .kept (refuse_linkKept hne _ _)

theorem execDisconnect_linkEffect (e : execDisconnect h s = .next t) : LinkEffect (.disconnect h) s t := by
  rcases issue_cases e with rfl | ⟨hidle, rfl⟩
  · exact .kept (.refl t)
  · have hne := ne_disconnect_of_portIdle hidle
    split
    · next hconn => exact .closes ⟨h, rfl⟩ hconn rfl (.of_setHost hne rfl)
    · exact .kept (respond_linkKept hne _)
    · exact .kept (setCmd_linkKept hne _)

theorem execDisconnectComplete_linkEffect (e : execDisconnectComplete s = .next t) :
    LinkEffect .disconnectComplete s t := by
  rcases execDisconnectComplete_cases e with rfl | ⟨hconn, htx, hrx, rfl⟩
  · exact .kept (.refl t)
  · exact .completes rfl hconn htx hrx rfl rfl

/-- Every instruction has one of the effects: the three by their lemmas, every other keeps the connection. -/
theorem exec_linkEffect (e : exec i s = .next t) : LinkEffect i s t := by
  cases i with
  | connect => exact execConnect_linkEffect e
  | disconnect => exact execDisconnect_linkEffect e
  | disconnectComplete => exact execDisconnectComplete_linkEffect e
  | reserved0 | reservedA | reservedB | reservedC | reservedD | reservedE | reservedF =>
    exact .kept (reservedCommand_linkKept e)
  | send => exact .kept (execSend_linkKept e)
  | sendTimed => exact .kept (execSendTimed_linkKept e)
  | subscribe => exact .kept (execSubscribe_linkKept e)
  | unsubscribe => exact .kept (execUnsubscribe_linkKept e)
  | setClock => exact .kept (execSetClock_linkKept e)
  | querySize | size => exact .kept (sizeQuery_linkKept e)
  | queryFull | isFull => exact .kept (fullQuery_linkKept e)
  | append => exact .kept (execAppend_linkKept e)
  | appendTimed => exact .kept (execAppendTimed_linkKept e)
  | insertRelease => exact .kept (execInsertRelease_linkKept e)
  | prepend =>
    rcases execPrepend_cases e with rfl | ⟨-, e⟩
    · exact .kept (.refl t)
    · exact .kept (ackInsertStep_linkKept e)
  | take | tTake => exact .kept (takeStep_linkKept e)
  | flag | escape | esc7E | esc7D | escIllegal | frame =>
    cases e
    exact .of_link (by simp [State.link])
  | ackreq =>
    rcases execAckreq_cases e with rfl | e | e
    · exact .kept (.refl t)
    · exact .kept (ackInsertStep_linkKept e)
    · exact .kept (ackAbortStep_linkKept e)
  | typeBareAck =>
    rcases execTypeBareAck_cases e with rfl | ⟨-, e⟩
    · exact .kept (.refl t)
    · exact .kept (takeStep_linkKept e)
  | typeExempt =>
    rcases execTypeExempt_cases e with rfl | ⟨-, e⟩
    · exact .kept (.refl t)
    · exact .kept (cs2Step_linkKept e)
  | notify => rcases execNotify_cases e with rfl | ⟨n, -, -, -, rfl⟩ <;> exact .of_link rfl
  | tReady => rcases execTReady_cases e with rfl | ⟨-, -, -, rfl⟩ <;> exact .of_link rfl
  | tTimeout => rcases execTTimeout_cases e with rfl | ⟨-, -, -, -, rfl⟩ <;> exact .of_link rfl
  | tCancel => rcases execTCancel_cases e with rfl | ⟨-, -, rfl⟩ <;> exact .of_link rfl
  | tEmit => rcases execTEmit_cases e with rfl | ⟨b, rest, answers, -, -, -, -, rfl⟩ <;> exact .of_link rfl
  | tWrerr =>
    rcases execTWrerr_cases e with rfl | ⟨-, -, -, rfl⟩ | ⟨answers, -, -, -, -, rfl⟩ <;> exact .of_link rfl
  | tEnd => rcases execTEnd_cases e with rfl | ⟨-, -, rfl⟩ <;> exact .of_link rfl
  | rHuntSkip => rcases execRHuntSkip_cases e with rfl | ⟨b, -, -, -, rfl⟩ <;> exact .of_link (by simp [State.link])
  | rHuntFlag => rcases execRHuntFlag_cases e with rfl | ⟨-, -, rfl⟩ <;> exact .of_link (by simp [State.link])
  | rLen => rcases execRLen_cases e with rfl | ⟨b, -, -, rfl⟩ <;> exact .of_link (by simp [State.link])
  | rDataPlain => rcases execRDataPlain_cases e with rfl | ⟨b, -, -, -, -, rfl⟩ <;> exact .of_link (by simp [State.link])
  | rDataEsc => rcases execRDataEsc_cases e with rfl | ⟨-, -, -, rfl⟩ <;> exact .of_link (by simp [State.link])
  | rEscOk => rcases execREscOk_cases e with rfl | ⟨b, -, -, -, -, rfl⟩ <;> exact .of_link (by simp [State.link])
  | rEscBad => rcases execREscBad_cases e with rfl | ⟨b, -, -, -, -, rfl⟩ <;> exact .of_link (by simp [State.link])
  | rCs1 => rcases execRCs1_cases e with rfl | ⟨b, -, -, rfl⟩ <;> exact .of_link (by simp [State.link])
  | rCs2 => exact .kept (cs2Step_linkKept e)
  | rAckInsert => exact .kept (ackInsertStep_linkKept e)
  | rAckHold => exact .kept (by rw [hold_cases e]; exact .refl s)
  | rAckAbort => exact .kept (ackAbortStep_linkKept e)
  | rAckNone => rcases execRAckNone_cases e with rfl | ⟨-, -, rfl⟩ <;> exact .of_link rfl
  | rGate => rcases execRGate_cases e with rfl | ⟨-, ⟨-, -, rfl⟩ | ⟨-, rfl⟩⟩ <;> exact .of_link rfl
  | rDeliverOk => rcases execRDeliverOk_cases e with rfl | ⟨n, -, -, rfl⟩ <;> exact .of_link rfl
  | rDeliverFault => rcases execRDeliverFault_cases e with rfl | ⟨n, -, -, rfl⟩ <;> exact .of_link rfl
  | rClose => rcases execRClose_cases e with rfl | ⟨r, -, rfl, -⟩ <;> exact .of_link (by simp [State.link])

/-- DISCONNECT alone closes the stream, and goes from CONNECTED to CLOSING with it (46_host_ops R170). -/
theorem LinkEffect.closes_of_stream (he : LinkEffect i s t) (hopen : s.streamOpen = true) (hclosed : t.streamOpen = false) :
    (∃ h, i = .disconnect h) ∧ s.conn = .connected ∧ t.conn = .closing := by
  have hchanged : t.streamOpen ≠ s.streamOpen := by rw [hopen, hclosed]; decide
  cases he with
  | kept hkept => exact absurd hkept.stream hchanged
  | connects hi hfrom hto hopen' hheld => exact absurd (hopen'.trans hopen.symm) hchanged
  | closes hi hfrom hto hheld => exact ⟨hi, hfrom, hto⟩
  | completes hi hfrom htx hrx hto hstream => exact absurd hstream hchanged

/-- The completion alone ends a held DISCONNECT (46_host_ops R171). -/
theorem LinkEffect.waitersHeld (he : LinkEffect i s t) (hi : i ≠ .disconnectComplete) : WaitersHeld s t := by
  cases he with
  | kept hkept => exact hkept.waiters
  | connects hi' hfrom hto hopen hheld => exact hheld
  | closes hi' hfrom hto hheld => exact hheld
  | completes hi' => exact absurd hi' hi

/-- Settles O19: each effect is one of the arrows of the cycle, or none. -/
theorem connectionLifecycle : Obligations.ConnectionLifecycle := by
  intro i s t e
  have he := exec_linkEffect e
  refine ⟨?arrow, fun hopen hclosed => (he.closes_of_stream hopen hclosed).2⟩
  case arrow =>
    cases he with
    | kept hkept => exact .inl hkept.conn
    | connects hi hfrom hto =>
      obtain ⟨h, rfl⟩ := hi
      exact .inr (.inl ⟨h, rfl, hfrom, hto⟩)
    | closes hi hfrom hto =>
      obtain ⟨h, rfl⟩ := hi
      exact .inr (.inr (.inl ⟨h, rfl, hfrom, hto⟩))
    | completes hi hfrom htx hrx hto => exact .inr (.inr (.inr ⟨hi, hfrom, htx, hrx, hto⟩))

/-! ### DISCONNECT at an idle port (R170, R172) -/

theorem exec_disconnect_connected (hi : s.idleAt h p) (hconn : s.conn = .connected) :
    exec (.disconnect h) s = .next (s.startClosing.executing h p .disconnect) := by
  simp only [exec, execDisconnect, issue_idle (idle_port hi), hconn, setCmd_eq (s := s.startClosing) hi.1]

theorem exec_disconnect_disconnected (hi : s.idleAt h p) (hconn : s.conn = .disconnected) :
    exec (.disconnect h) s = .next (s.answered h p .ok .none none) := by
  simp only [exec, execDisconnect, issue_idle (idle_port hi), hconn, respond_eq hi.1, okResponse]

theorem exec_disconnect_closing (hi : s.idleAt h p) (hconn : s.conn = .closing) :
    exec (.disconnect h) s = .next (s.executing h p .disconnect) := by
  simp only [exec, execDisconnect, issue_idle (idle_port hi), hconn, setCmd_eq hi.1]

/-- Settles O23: the connection state decides what the command does; the effect of the instruction says the rest. -/
theorem disconnectCommand : Obligations.DisconnectCommand := by
  refine ⟨fun s h p hi =>
      ⟨exec_disconnect_connected hi, exec_disconnect_disconnected hi, exec_disconnect_closing hi⟩,
    fun i s t e => ⟨fun hopen hclosed => ?closer, fun h p hp hc hi => ?held⟩⟩
  case closer =>
    obtain ⟨hi, hfrom, -⟩ := (exec_linkEffect e).closes_of_stream hopen hclosed
    exact ⟨hfrom, hi⟩
  case held => exact (exec_linkEffect e).waitersHeld hi h p hp hc

end Sys2Proof.Machine
end

section
/-! Settles O18 (70_reset_and_hazards R209, 10_state R45). What a step tests is the same in a state and in the state with
the unread registers erased, and each effect, done to both, gives two states that differ in unread registers only. -/

namespace Sys2Proof.Machine

variable {s : State} {h : Nat} {i : Instr}

/-- Two answers that are the same up to the registers no rule reads (70_reset R209). -/
def AgreeNext (a b : Result) : Prop := mapNext State.erase a = mapNext State.erase b

theorem AgreeNext.next {a b : State} (hab : a.erase = b.erase) : AgreeNext (.next a) (.next b) :=
  congrArg Host.Outcome.next hab

theorem AgreeNext.ite {p q : Prop} [Decidable p] [Decidable q] {a b a' b' : Result} (hpq : p ↔ q)
    (ha : p → AgreeNext a a') (hb : ¬ p → AgreeNext b b') :
    AgreeNext (if p then a else b) (if q then a' else b') := by
  by_cases hp : p
  · rw [if_pos hp, if_pos (hpq.mp hp)]
    exact ha hp
  · rw [if_neg hp, if_neg (mt hpq.mpr hp)]
    exact hb hp

theorem erase_ite {p : Prop} [Decidable p] {a b a' b' : State} (ha : p → a.erase = a'.erase)
    (hb : ¬ p → b.erase = b'.erase) : (if p then a else b).erase = (if p then a' else b').erase := by
  split
  · next hp => exact ha hp
  · next hp => exact hb hp

/-! ### The Transmitter's registers -/

section
variable {r : TxRegs}

@[simp] theorem TxRegs.erase_st (r : TxRegs) : r.erase.st = r.st := by
  unfold TxRegs.erase
  cases r.st <;> rfl

theorem TxRegs.erase_send (hst : r.st = .send) :
    r.erase = { TxRegs.powerOn with st := .send, frame := r.frame, isAck := r.isAck } := by
  simp only [TxRegs.erase, hst]

theorem TxRegs.erase_deadline (hst : r.st = .wait) : r.erase.deadline = r.deadline := by
  simp only [TxRegs.erase, hst]

theorem TxRegs.erase_frame (hst : r.st = .send) : r.erase.frame = r.frame := by simp only [TxRegs.erase, hst]

theorem TxRegs.erase_isAck (hst : r.st = .send) : r.erase.isAck = r.isAck := by simp only [TxRegs.erase, hst]

/-- In these states the Transmitter reads none of its other registers. -/
theorem TxRegs.erase_goto {st : TxSt} (hst : st = .off ∨ st = .take ∨ st = .stopped) (r q : TxRegs) :
    TxRegs.erase { r with st := st } = TxRegs.erase { q with st := st } := by
  rcases hst with rfl | rfl | rfl <;> rfl

theorem TxRegs.erase_setFrame (hst : r.st = .send) (rest : List Byte) :
    TxRegs.erase { r with frame := rest } = TxRegs.erase { r.erase with frame := rest } := by
  rw [TxRegs.erase_send hst]
  exact TxRegs.erase_send (r := { r with frame := rest }) hst

theorem TxRegs.erase_erase (r : TxRegs) : r.erase.erase = r.erase := by
  cases hst : r.st <;> simp only [TxRegs.erase, hst]
end

/-! ### The Receiver's registers -/

section
variable {r : RxRegs LID}

@[simp] theorem RxRegs.erase_st (r : RxRegs LID) : r.erase.st = r.st := by
  unfold RxRegs.erase
  cases r.st <;> rfl

theorem RxRegs.erase_data (hst : r.st = .data) :
    r.erase = { (RxRegs.powerOn : RxRegs LID) with
      st := .data, len := r.len, buf := r.buf, esc := r.esc, serr := r.serr, s1 := r.s1, s2 := r.s2 } := by
  simp only [RxRegs.erase, hst]

theorem RxRegs.erase_cs1 (hst : r.st = .cs1) :
    r.erase = { (RxRegs.powerOn : RxRegs LID) with
      st := .cs1, len := r.len, buf := r.buf, serr := r.serr, s1 := r.s1, s2 := r.s2 } := by
  simp only [RxRegs.erase, hst]

theorem RxRegs.erase_cs2 (hst : r.st = .cs2) :
    r.erase = { (RxRegs.powerOn : RxRegs LID) with
      st := .cs2, len := r.len, buf := r.buf, serr := r.serr, s1 := r.s1, s2 := r.s2, c1 := r.c1 } := by
  simp only [RxRegs.erase, hst]

theorem RxRegs.erase_ack (hst : r.st = .ack) :
    r.erase = { (RxRegs.powerOn : RxRegs LID) with st := .ack, len := r.len, buf := r.buf, ok := r.ok } := by
  simp only [RxRegs.erase, hst]

theorem RxRegs.erase_gate (hst : r.st = .gate) :
    r.erase = { (RxRegs.powerOn : RxRegs LID) with st := .gate, len := r.len, buf := r.buf, ok := r.ok } := by
  simp only [RxRegs.erase, hst]

theorem RxRegs.erase_dispatch (hst : r.st = .dispatch) :
    r.erase = { (RxRegs.powerOn : RxRegs LID) with st := .dispatch, buf := r.buf, snap := r.snap, idx := r.idx } := by
  simp only [RxRegs.erase, hst]

theorem RxRegs.erase_esc (hst : r.st = .data) : r.erase.esc = r.esc := by rw [RxRegs.erase_data hst]

theorem RxRegs.erase_ackreq (hst : r.st = .ack) : r.erase.ackreq = r.ackreq := by
  rw [RxRegs.erase_ack hst]
  rfl

theorem RxRegs.erase_erase (r : RxRegs LID) : r.erase.erase = r.erase := by
  cases hst : r.st <;> simp only [RxRegs.erase, hst]

/-- A notification is offered in RX_DISPATCH only, where what it is made of is kept. -/
theorem RxRegs.offer_erase (r : RxRegs LID) : r.erase.offer = r.offer := by
  by_cases hst : r.st = .dispatch
  · rw [RxRegs.erase_dispatch hst]
    simp only [RxRegs.offer, hst]
  · have hnone : ∀ q : RxRegs LID, q.st ≠ .dispatch → q.offer = none := fun q hq => by
      unfold RxRegs.offer
      split
      · next hq' _ _ => exact absurd hq' hq
      · rfl
    rw [hnone r hst, hnone r.erase (by rwa [RxRegs.erase_st])]

/-- Starting a frame writes every register that the frame's states read (44_receiver R139). -/
theorem RxRegs.erase_startFrame (r : RxRegs LID) (b : Byte) : (r.startFrame b).erase = (r.erase.startFrame b).erase := by
  unfold RxRegs.startFrame
  split <;> rfl

theorem RxRegs.erase_accept (hst : r.st = .data) (v : Byte) : (r.accept v).erase = (r.erase.accept v).erase := by
  rw [RxRegs.erase_data hst]
  unfold RxRegs.accept
  dsimp only
  split <;> rfl

theorem RxRegs.erase_startEscape (hst : r.st = .data) :
    RxRegs.erase { r with esc := true } = RxRegs.erase { r.erase with esc := true } := by
  rw [RxRegs.erase_data hst]
  exact RxRegs.erase_data (r := { r with esc := true }) hst

theorem RxRegs.erase_acceptEscaped (hst : r.st = .data) (v : Byte) :
    (RxRegs.accept { r with esc := false } v).erase = (RxRegs.accept { r.erase with esc := false } v).erase := by
  rw [RxRegs.erase_accept (r := { r with esc := false }) hst, RxRegs.erase_data hst,
    RxRegs.erase_data (r := { r with esc := false }) hst]

theorem RxRegs.erase_acceptMalformed (hst : r.st = .data) (v : Byte) :
    (RxRegs.accept { r with esc := false, serr := true } v).erase =
      (RxRegs.accept { r.erase with esc := false, serr := true } v).erase := by
  rw [RxRegs.erase_accept (r := { r with esc := false, serr := true }) hst, RxRegs.erase_data hst,
    RxRegs.erase_data (r := { r with esc := false, serr := true }) hst]

theorem RxRegs.erase_startDispatch (hst : r.st = .gate) (reg : List LID) :
    (r.startDispatch reg).erase = (r.erase.startDispatch reg).erase := by
  rw [RxRegs.erase_gate hst]
  unfold RxRegs.startDispatch
  split <;> rfl

theorem RxRegs.erase_advance (hst : r.st = .dispatch) : r.advance.erase = r.erase.advance.erase := by
  rw [RxRegs.erase_dispatch hst]
  unfold RxRegs.advance
  rw [hst]
  dsimp only
  split <;> rfl

/-- In these states the Receiver reads none of its other registers. -/
theorem RxRegs.erase_goto {st : RxSt} (hst : st = .off ∨ st = .hunt ∨ st = .len ∨ st = .stopped) (r q : RxRegs LID) :
    RxRegs.erase { r with st := st } = RxRegs.erase { q with st := st } := by
  rcases hst with rfl | rfl | rfl | rfl <;> rfl
end

/-! ### The host ports' registers -/

section
variable {p : HostPort}

@[simp] theorem HostPort.erase_cmd (p : HostPort) : p.erase.cmd = p.cmd := by
  unfold HostPort.erase
  split <;> rfl

@[simp] theorem HostPort.erase_resp (p : HostPort) : p.erase.resp = p.resp := by
  unfold HostPort.erase
  split <;> rfl

theorem HostPort.erase_sendTimed {m : Message} {tMs : Nat} (hc : p.cmd = some (.sendTimed m tMs)) : p.erase = p := by
  simp only [HostPort.erase, hc]

/-- The erased registers of a port are a function of its command, its responses and, under SEND_TIMED, its deadline. -/
theorem HostPort.erase_congr {q : HostPort} (hcmd : p.cmd = q.cmd) (hresp : p.resp = q.resp)
    (hd : ∀ m tMs, p.cmd = some (.sendTimed m tMs) → p.deadline = q.deadline) : p.erase = q.erase := by
  obtain ⟨c, d, l⟩ := p
  obtain ⟨c', d', l'⟩ := q
  dsimp only at hcmd hresp hd
  subst hcmd hresp
  cases c with
  | none => rfl
  | some c =>
    cases c with
    | sendTimed m tMs => rw [hd m tMs rfl]
    | send | setClock | disconnect => rfl

theorem HostPort.erase_erase (p : HostPort) : p.erase.erase = p.erase :=
  HostPort.erase_congr p.erase_cmd p.erase_resp fun _ _ hc => by
    rw [HostPort.erase_sendTimed (p.erase_cmd.symm.trans hc)]

/-- An operation on a port that ends its command, or replaces it by one that reads no deadline. -/
theorem HostPort.erase_of_cmd {f : HostPort → HostPort} {c : Option HostCmd} (hcmd : ∀ p, (f p).cmd = c)
    (hne : ∀ m tMs, c ≠ some (.sendTimed m tMs)) (hresp : (f p).resp = (f p.erase).resp) :
    (f p).erase = (f p.erase).erase :=
  HostPort.erase_congr ((hcmd p).trans (hcmd _).symm) hresp fun m tMs hc => absurd ((hcmd p).symm.trans hc) (hne m tMs)
end

/-! ### What the steps test -/

@[simp] theorem State.erase_cfg (s : State) : s.erase.cfg = s.cfg := rfl
@[simp] theorem State.erase_conn (s : State) : s.erase.conn = s.conn := rfl
@[simp] theorem State.erase_streamOpen (s : State) : s.erase.streamOpen = s.streamOpen := rfl
@[simp] theorem State.erase_cancel (s : State) : s.erase.cancel = s.cancel := rfl
@[simp] theorem State.erase_q (s : State) : s.erase.q = s.q := rfl
@[simp] theorem State.erase_gate (s : State) : s.erase.gate = s.gate := rfl
@[simp] theorem State.erase_tx (s : State) : s.erase.tx = s.tx.erase := rfl
@[simp] theorem State.erase_rx (s : State) : s.erase.rx = s.rx.erase := rfl
@[simp] theorem State.erase_reg (s : State) : s.erase.reg = s.reg := rfl
@[simp] theorem State.erase_host (s : State) : s.erase.host = s.host.map HostPort.erase := rfl
@[simp] theorem State.erase_sinkAns (s : State) : s.erase.sinkAns = s.sinkAns := rfl
@[simp] theorem State.erase_lisAns (s : State) : s.erase.lisAns = s.lisAns := rfl
@[simp] theorem State.erase_hasSpace (s : State) : s.erase.hasSpace = s.hasSpace := rfl
@[simp] theorem State.erase_statQfull (s : State) : s.erase.statQfull = s.statQfull := rfl
@[simp] theorem State.erase_recv (s : State) : s.erase.recv = s.recv := rfl
@[simp] theorem State.erase_recvByte (s : State) : s.erase.recvByte = s.recvByte := rfl

@[simp] theorem State.erase_offer (s : State) : s.erase.offer = s.offer := s.rx.offer_erase

@[simp] theorem State.erase_hostCmd (s : State) (h : Nat) : s.erase.hostCmd h = s.hostCmd h := by
  unfold State.hostCmd
  cases hp : s.host[h]? <;> simp [hp]

@[simp] theorem State.erase_portIdle (s : State) (h : Nat) : s.erase.portIdle h = s.portIdle h := by
  unfold State.portIdle
  cases hp : s.host[h]? <;> simp [hp]

theorem State.erase_hostDeadline {m : Message} {tMs : Nat} (hc : s.hostCmd h = some (.sendTimed m tMs)) :
    s.erase.hostDeadline h = s.hostDeadline h := by
  unfold State.hostCmd at hc
  unfold State.hostDeadline
  split at hc
  · next p hp => simp [hp, HostPort.erase_sendTimed hc]
  · cases hc

theorem State.erase_erase (s : State) : s.erase.erase = s.erase := by
  simp only [State.erase, TxRegs.erase_erase, RxRegs.erase_erase, List.map_map, Function.comp_def, HostPort.erase_erase]

theorem State.erase_fetched (s : State) : s.fetched.erase = s.erase.fetched := by
  cases hs : s.sched with
  | nil => rw [State.fetched_nil hs, State.fetched_nil (s := s.erase) hs]; rfl
  | cons c rest => rw [State.fetched_cons hs, State.fetched_cons (s := s.erase) hs]; rfl

theorem State.erase_consumeSymbol (s : State) : s.consumeSymbol.erase = s.erase.consumeSymbol.erase :=
  erase_ite (fun _ => (State.erase_erase _).symm) fun _ => s.erase_erase.symm

theorem State.erase_offerSymbols (s : State) (xs : List Symbol) :
    (s.offerSymbols xs).erase = (s.erase.offerSymbols xs).erase :=
  erase_ite (fun _ => (State.erase_erase _).symm) fun _ => s.erase_erase.symm

theorem State.erase_offerAnswers (s : State) (xs : List SinkAnswer) :
    (s.offerAnswers xs).erase = (s.erase.offerAnswers xs).erase :=
  erase_ite (fun _ => (State.erase_erase _).symm) fun _ => s.erase_erase.symm

theorem hold_agrees (s : State) : AgreeNext (hold s) (hold s.erase) := .next s.erase_erase.symm

/-- A step under one condition, which the erased registers leave as it is. -/
theorem AgreeNext.enabled {p q : Prop} [Decidable p] [Decidable q] {t u : State} (hpq : p ↔ q)
    (ht : p → t.erase = u.erase) :
    AgreeNext (if p then .next t else hold s) (if q then .next u else hold s.erase) :=
  .ite hpq (fun hp => .next (ht hp)) fun _ => hold_agrees s

/-! ### The operations on a port -/

section
variable {m : Message} {c : HostCmd} {op : BitVec 4} {k : State → State}

theorem State.erase_setHost {f : HostPort → HostPort} (hf : ∀ p, (f p).erase = (f p.erase).erase) :
    (s.setHost h f).erase = (s.erase.setHost h f).erase := by
  have hhost : (s.host.modify h f).map HostPort.erase = ((s.host.map HostPort.erase).modify h f).map HostPort.erase := by
    refine List.ext_getElem? fun j => ?_
    by_cases hj : h = j
    · simp [hj, Function.comp_def, ← hf]
    · simp [hj, Function.comp_def, HostPort.erase_erase]
  simp only [State.setHost, State.erase, hhost, TxRegs.erase_erase, RxRegs.erase_erase]

theorem State.erase_respond (s : State) (h : Nat) (r : Response) :
    (s.respond h r).erase = (s.erase.respond h r).erase :=
  State.erase_setHost fun p =>
    HostPort.erase_of_cmd (f := fun p => p.respond r) (fun _ => rfl) nofun (by simp [HostPort.respond])

theorem State.erase_setCmd (s : State) (h : Nat) (hne : ∀ m tMs, c ≠ .sendTimed m tMs) :
    (s.setCmd h c).erase = (s.erase.setCmd h c).erase :=
  State.erase_setHost fun p =>
    HostPort.erase_of_cmd (f := fun p => { p with cmd := some c }) (fun _ => rfl) (by simpa using hne) (by simp)

theorem State.erase_refuse (s : State) (h : Nat) (op : BitVec 4) (r : Reason) :
    (s.refuse h op r).erase = (s.erase.refuse h op r).erase :=
  congrArg (State.raise · [.cmdRefused h op r]) (s.erase_respond h (refusedResponse r))

theorem State.erase_insertAndRespond (s : State) (h : Nat) (m : Message) :
    (s.insertAndRespond h m).erase = (s.erase.insertAndRespond h m).erase := (s.enqueue m).erase_respond h okResponse

theorem State.erase_insertOrHold (s : State) (h : Nat) (m : Message) (hne : ∀ m tMs, c ≠ .sendTimed m tMs) :
    (s.insertOrHold h m c).erase = (s.erase.insertOrHold h m c).erase :=
  erase_ite (fun _ => s.erase_insertAndRespond h m) fun _ => s.erase_setCmd h hne

theorem State.erase_sendChecks (hk : (k s).erase = (k s.erase).erase) (h : Nat) (op : BitVec 4) (m : Message) :
    (s.sendChecks h op m k).erase = (s.erase.sendChecks h op m k).erase :=
  erase_ite (fun _ => s.erase_refuse h op .notConnected) fun _ =>
    erase_ite (fun _ => s.erase_refuse h op .msgTooLong) fun _ => hk

theorem State.erase_sendIssue (s : State) (h : Nat) (op : BitVec 4) (m : Message)
    (hne : ∀ m tMs, c ≠ .sendTimed m tMs) :
    (s.sendIssue h op m c).erase = (s.erase.sendIssue h op m c).erase :=
  State.erase_sendChecks (s.erase_insertOrHold h m hne) h op m

theorem State.setDeadline_setHost (s : State) (h d : Nat) (f : HostPort → HostPort) :
    (s.setDeadline h d).setHost h f = s.setHost h fun p => f { p with deadline := d } := by
  simp only [State.setDeadline, State.setHost, List.modify_modify_eq, Function.comp_def]

/-- A SEND_TIMED reads the deadline it has just written (46_host_ops R176). -/
theorem State.erase_setDeadline_insertOrHold (s : State) (h d : Nat) (m : Message) (c : HostCmd) :
    ((s.setDeadline h d).insertOrHold h m c).erase = ((s.erase.setDeadline h d).insertOrHold h m c).erase := by
  refine erase_ite (fun _ => ?inserts) fun _ => ?holds
  case inserts =>
    have hresp (t : State) : (t.setDeadline h d).insertAndRespond h m =
        (t.enqueue m).setHost h fun p => { p with deadline := d }.respond okResponse :=
      (t.enqueue m).setDeadline_setHost h d _
    rw [hresp, hresp]
    exact State.erase_setHost (s := s.enqueue m) fun p =>
      HostPort.erase_congr rfl (by simp [HostPort.respond]) fun _ _ _ => rfl
  case holds =>
    have hcmd (t : State) : (t.setDeadline h d).setCmd h c =
        t.setHost h fun p => { p with deadline := d, cmd := some c } := t.setDeadline_setHost h d _
    rw [hcmd, hcmd]
    exact State.erase_setHost fun p => HostPort.erase_congr rfl (by simp) fun _ _ _ => rfl
end

/-! ### The registers of the loops in a state -/

section
variable {u v : State}

theorem State.erase_setTx (huv : u.erase = v.erase) {r q : TxRegs} (hr : r.erase = q.erase) :
    State.erase { u with tx := r } = State.erase { v with tx := q } :=
  (congrArg (fun w : State => { w with tx := r.erase }) huv).trans (congrArg (fun x => { v.erase with tx := x }) hr)

theorem State.erase_setRx (huv : u.erase = v.erase) {r q : RxRegs LID} (hr : r.erase = q.erase) :
    State.erase { u with rx := r } = State.erase { v with rx := q } :=
  (congrArg (fun w : State => { w with rx := r.erase }) huv).trans (congrArg (fun x => { v.erase with rx := x }) hr)

theorem State.erase_txGoto {st : TxSt} (hst : st = .off ∨ st = .take ∨ st = .stopped) (huv : u.erase = v.erase) :
    (u.txGoto st).erase = (v.txGoto st).erase := State.erase_setTx huv (TxRegs.erase_goto hst u.tx v.tx)

theorem State.erase_rxGoto {st : RxSt} (hst : st = .off ∨ st = .hunt ∨ st = .len ∨ st = .stopped)
    (huv : u.erase = v.erase) : (u.rxGoto st).erase = (v.rxGoto st).erase :=
  State.erase_setRx huv (RxRegs.erase_goto hst u.rx v.rx)

theorem State.erase_txStop (huv : u.erase = v.erase) (r : TxStopReason) : (u.txStop r).erase = (v.txStop r).erase :=
  State.erase_txGoto (.inr (.inr rfl)) (congrArg (State.raise · [.txStopped r]) huv)

theorem State.erase_takeMessage (s : State) (m : Message) (rest : List Message) :
    (s.takeMessage m rest).erase = (s.erase.takeMessage m rest).erase :=
  State.erase_setTx (u := { s.consumeAtTake with q := rest }) (v := { s.erase.consumeAtTake with q := rest })
    (State.erase_erase _).symm rfl

/-- A read by the Receiver. -/
theorem State.erase_read {r q : RxRegs LID} (hr : r.erase = q.erase) :
    State.erase { s.consumeSymbol with rx := r } = State.erase { s.erase.consumeSymbol with rx := q } :=
  State.erase_setRx s.erase_consumeSymbol hr

theorem State.erase_finishFrame (hst : s.rx.st = .cs2) (b : Byte) :
    (s.finishFrame b).erase = (s.erase.finishFrame b).erase := by
  have hev : s.rx.frameEvents b = s.rx.erase.frameEvents b := by rw [RxRegs.erase_cs2 hst]; rfl
  have hok : s.rx.validity b = s.rx.erase.validity b := by rw [RxRegs.erase_cs2 hst]; rfl
  have hcons := congrArg (State.raise · (s.rx.frameEvents b)) s.erase_consumeSymbol
  unfold State.finishFrame
  rw [State.erase_rx, ← hev, ← hok]
  refine State.erase_setRx (u := s.consumeSymbol.raise _) (v := s.erase.consumeSymbol.raise _) hcons ?_
  rw [RxRegs.erase_cs2 hst]
  rfl

theorem State.erase_rxClose (s : State) (r : RxStopReason) : (s.rxClose r).erase = (s.erase.rxClose r).erase := by
  have hev : s.rx.closeEvents r = s.rx.erase.closeEvents r := by simp only [RxRegs.closeEvents, RxRegs.erase_st]
  unfold State.rxClose
  rw [State.erase_rx, ← hev]
  exact State.erase_rxGoto (.inr (.inr (.inr rfl))) (congrArg (State.raise · (s.rx.closeEvents r)) s.erase_consumeSymbol)

theorem State.erase_ackToGate (hst : s.rx.st = .ack) {q : List Message} :
    (State.rxGoto { s with q := q } .gate).erase = (State.rxGoto { s.erase with q := q } .gate).erase := by
  refine State.erase_setRx (u := { s with q := q }) (State.erase_erase _).symm ?_
  rw [State.erase_rx, RxRegs.erase_ack hst]
  rfl

theorem State.erase_connect (s : State) : s.connect.erase = s.erase.connect.erase :=
  have hlink :
      State.erase { s with
        conn := .connected, streamOpen := true, cancel := false, q := [], gate := true, reg := [] } =
      State.erase { s.erase with
        conn := .connected, streamOpen := true, cancel := false, q := [], gate := true, reg := [] } :=
    (State.erase_erase _).symm
  State.erase_setRx (State.erase_setTx hlink rfl) rfl

theorem HostPort.erase_completeDisconnect (p : HostPort) :
    p.completeDisconnect.erase = p.erase.completeDisconnect.erase := by
  unfold HostPort.completeDisconnect
  rw [HostPort.erase_cmd]
  split
  · exact HostPort.erase_congr rfl (by simp [HostPort.respond]) nofun
  · exact p.erase_erase.symm

theorem State.erase_completeDisconnect (s : State) : s.completeDisconnect.erase = s.erase.completeDisconnect.erase := by
  have hhost : (s.host.map HostPort.completeDisconnect).map HostPort.erase =
      ((s.host.map HostPort.erase).map HostPort.completeDisconnect).map HostPort.erase := by
    simp only [List.map_map, Function.comp_def, ← HostPort.erase_completeDisconnect]
  exact congrArg (fun l : List HostPort => { s.completeDisconnect.erase with host := l }) hhost
end

/-! ### The shared steps -/

section
variable {k : State → State} {op : BitVec 4}

theorem issue_agrees (hk : (k s).erase = (k s.erase).erase) : AgreeNext (issue h s k) (issue h s.erase k) :=
  .enabled (by rw [State.erase_portIdle]) fun _ => hk

theorem reservedCommand_agrees (h : Nat) (op : BitVec 4) (s : State) :
    AgreeNext (reservedCommand h op s) (reservedCommand h op s.erase) := issue_agrees (s.erase_refuse h op .reservedOp)

theorem sizeQuery_agrees (h : Nat) (s : State) : AgreeNext (sizeQuery h s) (sizeQuery h s.erase) :=
  issue_agrees (s.erase_respond h _)

theorem fullQuery_agrees (h : Nat) (s : State) : AgreeNext (fullQuery h s) (fullQuery h s.erase) :=
  issue_agrees (s.erase_respond h _)

theorem takeStep_agrees (s : State) : AgreeNext (takeStep s) (takeStep s.erase) := by
  simp only [takeStep, State.erase_tx, TxRegs.erase_st, State.erase_cancel, State.erase_q]
  split
  · exact .next (s.erase_takeMessage _ _)
  · exact hold_agrees s

theorem ackInsertStep_agrees (s : State) : AgreeNext (ackInsertStep s) (ackInsertStep s.erase) := by
  refine .enabled ?_ fun ⟨hst, _, _⟩ => State.erase_ackToGate hst
  rw [State.erase_rx, RxRegs.erase_st, State.erase_hasSpace]
  refine and_congr_right fun hst => ?_
  rw [RxRegs.erase_ackreq hst]

theorem ackAbortStep_agrees (s : State) : AgreeNext (ackAbortStep s) (ackAbortStep s.erase) := by
  refine .enabled ?_ fun ⟨hst, _, _⟩ => State.erase_rxGoto (.inr (.inr (.inr rfl))) (State.erase_erase (s.raise _)).symm
  rw [State.erase_rx, RxRegs.erase_st, State.erase_statQfull, State.erase_cancel]
  refine and_congr_right fun hst => ?_
  rw [RxRegs.erase_ackreq hst]

theorem cs2Step_agrees (s : State) : AgreeNext (cs2Step s) (cs2Step s.erase) := by
  simp only [cs2Step, State.erase_rx, RxRegs.erase_st, State.erase_recvByte]
  split
  · next b hst _ => exact .next (State.erase_finishFrame hst b)
  · exact hold_agrees s
end

/-! ### The host commands -/

theorem execConnect_agrees (h : Nat) (s : State) : AgreeNext (execConnect h s) (execConnect h s.erase) := by
  have hconnect : (s.connect.respond h okResponse).erase = (s.erase.connect.respond h okResponse).erase := by
    rw [State.erase_respond, State.erase_connect, ← State.erase_respond]
  exact issue_agrees (erase_ite (fun _ => hconnect) fun _ => s.erase_refuse h 0x1 .alreadyConnected)

theorem execDisconnect_agrees (h : Nat) (s : State) : AgreeNext (execDisconnect h s) (execDisconnect h s.erase) := by
  refine issue_agrees ?_
  rw [State.erase_conn]
  split
  · exact s.startClosing.erase_setCmd h nofun
  · exact s.erase_respond h okResponse
  · exact s.erase_setCmd h nofun

theorem execSend_agrees (h : Nat) (m : Message) (s : State) : AgreeNext (execSend h m s) (execSend h m s.erase) :=
  issue_agrees (s.erase_sendIssue h 0x3 m nofun)

theorem execSendTimed_agrees (h : Nat) (m : Message) (tMs : Nat) (s : State) :
    AgreeNext (execSendTimed h m tMs s) (execSendTimed h m tMs s.erase) :=
  issue_agrees (State.erase_sendChecks (s.erase_setDeadline_insertOrHold h (s.now + tMs) m _) h 0x4 m)

theorem execSubscribe_agrees (h : Nat) (lid : LID) (s : State) :
    AgreeNext (execSubscribe h lid s) (execSubscribe h lid s.erase) := by
  refine issue_agrees (erase_ite (fun _ => s.erase_refuse h 0x5 .notConnected) fun _ => ?_)
  rw [State.erase_cfg, State.erase_reg]
  split
  · exact s.erase_respond h okResponse
  · exact s.erase_refuse h 0x5 .regFull
  · next reg _ => exact State.erase_respond { s with reg := reg } h okResponse

theorem execUnsubscribe_agrees (h : Nat) (lid : LID) (s : State) :
    AgreeNext (execUnsubscribe h lid s) (execUnsubscribe h lid s.erase) :=
  issue_agrees (State.erase_respond { s with reg := unsubscribeFrom s.reg lid } h okResponse)

theorem execSetClock_agrees (h year month day hour minute dow : Nat) (s : State) :
    AgreeNext (execSetClock h year month day hour minute dow s) (execSetClock h year month day hour minute dow s.erase) :=
  issue_agrees (erase_ite (fun _ => s.erase_sendIssue h 0x7 _ nofun) fun _ =>
    erase_ite (fun _ => s.erase_refuse h 0x7 .badField) fun _ => s.drawn.erase_refuse h 0x7 s.clockReason)

theorem execAppend_agrees (h : Nat) (m : Message) (s : State) : AgreeNext (execAppend h m s) (execAppend h m s.erase) := by
  simp only [execAppend, State.erase_hostCmd]
  split
  · exact .enabled Iff.rfl fun _ => s.erase_insertAndRespond h m
  · exact hold_agrees s

/-- The deadline is compared while the port executes SEND_TIMED, which keeps it. -/
theorem execAppendTimed_agrees (h : Nat) (m : Message) (tMs : Nat) (s : State) :
    AgreeNext (execAppendTimed h m tMs s) (execAppendTimed h m tMs s.erase) := by
  refine .ite (by rw [State.erase_hostCmd, State.erase_conn]) (fun ⟨hcmd, _⟩ => ?_) fun _ => hold_agrees s
  refine .ite Iff.rfl (fun _ => .next (s.erase_insertAndRespond h m)) fun _ => ?_
  refine .enabled (by rw [State.erase_hostDeadline hcmd]; rfl) fun _ => ?_
  exact congrArg (State.raise · [.deliveryFailure h 0x4]) (s.erase_respond h timeoutResponse)

theorem execInsertRelease_agrees (h : Nat) (op : InsertOp) (s : State) :
    AgreeNext (execInsertRelease h op s) (execInsertRelease h op s.erase) := by
  simp only [execInsertRelease, State.erase_hostCmd]
  split
  · exact .enabled Iff.rfl fun _ => congrArg (State.raise · [.deliveryFailure h op.code]) (s.erase_respond h _)
  · exact hold_agrees s

/-! ### The Transmitter's steps -/

theorem execTReady_agrees (s : State) : AgreeNext (execTReady s) (execTReady s.erase) :=
  .enabled (by rw [State.erase_tx, TxRegs.erase_st]; rfl) fun _ =>
    State.erase_txGoto (.inr (.inl rfl)) (State.erase_erase s.consumeAtWaitExit).symm

theorem execTTimeout_agrees (s : State) : AgreeNext (execTTimeout s) (execTTimeout s.erase) := by
  refine .enabled ?_ fun _ => State.erase_txGoto (.inr (.inl rfl)) (State.erase_erase (s.raise [.gateTimeout])).symm
  rw [State.erase_tx, TxRegs.erase_st]
  refine and_congr_right fun hst => ?_
  rw [TxRegs.erase_deadline hst]
  rfl

theorem execTCancel_agrees (s : State) : AgreeNext (execTCancel s) (execTCancel s.erase) :=
  .enabled (by rw [State.erase_tx, TxRegs.erase_st]; rfl) fun _ => State.erase_txStop s.erase_erase.symm .cancelled

theorem execTEmit_agrees (s : State) : AgreeNext (execTEmit s) (execTEmit s.erase) := by
  simp only [execTEmit, State.erase_tx, TxRegs.erase_st, State.erase_streamOpen, State.erase_sinkAns]
  cases hst : s.tx.st with
  | send =>
    rw [TxRegs.erase_frame hst]
    split
    · exact .next (State.erase_setTx
        (u := { s with wireOut := s.wireOut ++ [_], sinkAns := _ })
        (v := { s.erase with wireOut := s.wireOut ++ [_], sinkAns := _ })
        (State.erase_erase _).symm (by simpa only [hst, TxRegs.erase_st] using TxRegs.erase_setFrame hst _))
    · exact hold_agrees s
  | off | wait | take | stopped => exact hold_agrees s

theorem execTWrerr_agrees (s : State) : AgreeNext (execTWrerr s) (execTWrerr s.erase) := by
  simp only [execTWrerr, State.erase_tx, TxRegs.erase_st, State.erase_streamOpen, State.erase_sinkAns]
  cases hst : s.tx.st with
  | send =>
    rw [TxRegs.erase_frame hst]
    split
    · exact .next (State.erase_txStop s.erase_erase.symm .writeError)
    · exact .next (State.erase_txStop (u := { s with sinkAns := _ }) (State.erase_erase _).symm .writeError)
    · exact hold_agrees s
  | off | wait | take | stopped => exact hold_agrees s

theorem execTEnd_agrees (s : State) : AgreeNext (execTEnd s) (execTEnd s.erase) := by
  refine .enabled ?_ fun ⟨hst, _⟩ => ?_
  · rw [State.erase_tx, TxRegs.erase_st]
    refine and_congr_right fun hst => ?_
    rw [TxRegs.erase_frame hst]
  · unfold State.endFrame
    rw [State.erase_tx, TxRegs.erase_isAck hst]
    exact State.erase_setTx (u := { s with gate := if s.tx.isAck then true else s.gate })
      (v := { s.erase with gate := if s.tx.isAck then true else s.gate }) (State.erase_erase _).symm rfl

/-! ### The Receiver's steps -/

theorem execRHuntSkip_agrees (s : State) : AgreeNext (execRHuntSkip s) (execRHuntSkip s.erase) := by
  simp only [execRHuntSkip, State.erase_rx, RxRegs.erase_st, State.erase_recvByte]
  split
  · exact .ite Iff.rfl (fun _ => hold_agrees s) fun _ => .next s.erase_consumeSymbol
  · exact hold_agrees s

theorem execRHuntFlag_agrees (s : State) : AgreeNext (execRHuntFlag s) (execRHuntFlag s.erase) := by
  simp only [execRHuntFlag, State.erase_rx, RxRegs.erase_st, State.erase_recvByte]
  split
  · exact .enabled Iff.rfl fun _ => State.erase_rxGoto (.inr (.inr (.inl rfl))) s.erase_consumeSymbol
  · exact hold_agrees s

theorem execRLen_agrees (s : State) : AgreeNext (execRLen s) (execRLen s.erase) := by
  simp only [execRLen, State.erase_rx, RxRegs.erase_st, State.erase_recvByte]
  split
  · exact .next (State.erase_read (s.rx.erase_startFrame _))
  · exact hold_agrees s

theorem execRDataPlain_agrees (s : State) : AgreeNext (execRDataPlain s) (execRDataPlain s.erase) := by
  simp only [execRDataPlain, State.erase_rx, RxRegs.erase_st, State.erase_recvByte]
  cases hst : s.rx.st with
  | data =>
    rw [RxRegs.erase_esc hst]
    split
    · exact .ite Iff.rfl (fun _ => hold_agrees s) fun _ => .next (State.erase_read (RxRegs.erase_accept hst _))
    · exact hold_agrees s
  | off | hunt | len | cs1 | cs2 | ack | gate | dispatch | stopped => exact hold_agrees s

theorem execRDataEsc_agrees (s : State) : AgreeNext (execRDataEsc s) (execRDataEsc s.erase) := by
  simp only [execRDataEsc, State.erase_rx, RxRegs.erase_st, State.erase_recvByte]
  cases hst : s.rx.st with
  | data =>
    rw [RxRegs.erase_esc hst]
    split
    · exact .enabled Iff.rfl fun _ => State.erase_read (by
        simpa only [hst, RxRegs.erase_st] using RxRegs.erase_startEscape hst)
    · exact hold_agrees s
  | off | hunt | len | cs1 | cs2 | ack | gate | dispatch | stopped => exact hold_agrees s

theorem execREscOk_agrees (s : State) : AgreeNext (execREscOk s) (execREscOk s.erase) := by
  simp only [execREscOk, State.erase_rx, RxRegs.erase_st, State.erase_recvByte]
  cases hst : s.rx.st with
  | data =>
    rw [RxRegs.erase_esc hst]
    split
    · refine .enabled Iff.rfl fun _ => State.erase_read ?_
      simpa only [hst, RxRegs.erase_st] using RxRegs.erase_acceptEscaped hst _
    · exact hold_agrees s
  | off | hunt | len | cs1 | cs2 | ack | gate | dispatch | stopped => exact hold_agrees s

theorem execREscBad_agrees (s : State) : AgreeNext (execREscBad s) (execREscBad s.erase) := by
  simp only [execREscBad, State.erase_rx, RxRegs.erase_st, State.erase_recvByte]
  cases hst : s.rx.st with
  | data =>
    rw [RxRegs.erase_esc hst]
    split
    · refine .ite Iff.rfl (fun _ => hold_agrees s) fun _ => .next (State.erase_read ?_)
      simpa only [hst, RxRegs.erase_st] using RxRegs.erase_acceptMalformed hst _
    · exact hold_agrees s
  | off | hunt | len | cs1 | cs2 | ack | gate | dispatch | stopped => exact hold_agrees s

theorem execRCs1_agrees (s : State) : AgreeNext (execRCs1 s) (execRCs1 s.erase) := by
  simp only [execRCs1, State.erase_rx, RxRegs.erase_st, State.erase_recvByte]
  split
  · next b hst _ =>
    refine .next (State.erase_read ?_)
    rw [RxRegs.erase_cs1 hst]
    rfl
  · exact hold_agrees s

theorem execRAckNone_agrees (s : State) : AgreeNext (execRAckNone s) (execRAckNone s.erase) := by
  refine .enabled ?_ fun ⟨hst, _⟩ => State.erase_ackToGate (q := s.q) hst
  rw [State.erase_rx, RxRegs.erase_st]
  refine and_congr_right fun hst => ?_
  rw [RxRegs.erase_ackreq hst]

theorem execRGate_agrees (s : State) : AgreeNext (execRGate s) (execRGate s.erase) := by
  have hgate := (State.erase_erase s.gateSet).symm
  refine .ite (by rw [State.erase_rx, RxRegs.erase_st]) (fun hst => .ite ?_ (fun _ => .next ?_) fun _ => .next ?_) fun _ =>
    hold_agrees s
  · rw [State.erase_rx, RxRegs.erase_gate hst]
  · exact State.erase_setRx hgate (RxRegs.erase_startDispatch hst s.reg)
  · exact State.erase_rxGoto (.inr (.inl rfl)) hgate

theorem State.erase_advance (hst : s.rx.st = .dispatch) : s.advance.erase = s.erase.advance.erase :=
  State.erase_setRx (u := { s with lisAns := none }) (State.erase_erase _).symm (RxRegs.erase_advance hst)

theorem execRDeliverOk_agrees (s : State) : AgreeNext (execRDeliverOk s) (execRDeliverOk s.erase) := by
  simp only [execRDeliverOk, State.erase_offer, State.erase_lisAns]
  split
  · next n hoffer _ => exact .next (State.erase_advance (offer_some hoffer).1)
  · exact hold_agrees s

theorem execRDeliverFault_agrees (s : State) : AgreeNext (execRDeliverFault s) (execRDeliverFault s.erase) := by
  simp only [execRDeliverFault, State.erase_offer, State.erase_lisAns]
  split
  · next n hoffer _ => exact .next (State.erase_advance (s := s.raise _) (offer_some hoffer).1)
  · exact hold_agrees s

theorem execRClose_agrees (s : State) : AgreeNext (execRClose s) (execRClose s.erase) := by
  simp only [execRClose, State.erase_rx, RxRegs.erase_st, State.erase_recv]
  split
  · exact .next (s.erase_rxClose .closed)
  · exact .next (s.erase_rxClose .readError)
  · exact hold_agrees s

/-! ### The rows that name a shared step, and the listener's -/

theorem execNotify_agrees (lid : LID) (a : ListenerAnswer) (s : State) :
    AgreeNext (execNotify lid a s) (execNotify lid a s.erase) := by
  simp only [execNotify, State.erase_offer, State.erase_lisAns]
  split
  · exact .enabled Iff.rfl fun _ => (State.erase_erase { s with notes := _, lisAns := _ }).symm
  · exact hold_agrees s

/-- The type byte is compared where the Receiver keeps it, in RX_ACK. -/
theorem execAckreq_agrees (r : Bool) (y : BitVec 6) (s : State) :
    AgreeNext (execAckreq r y s) (execAckreq r y s.erase) := by
  have helse (u : State) (hu : u.rx.st ≠ .ack) : execAckreq r y u = hold u := by
    simp [execAckreq, ackInsertStep, ackAbortStep, hu]
  by_cases hst : s.rx.st = .ack
  · refine .ite ?_ (fun _ => .ite Iff.rfl (fun _ => ackInsertStep_agrees s) fun _ => ackAbortStep_agrees s) fun _ =>
      hold_agrees s
    rw [State.erase_rx, RxRegs.erase_ack hst]
    rfl
  · rw [helse s hst, helse s.erase (by rwa [State.erase_rx, RxRegs.erase_st])]
    exact hold_agrees s

/-- The type byte is compared where the Receiver keeps it, in RX_CS2. -/
theorem execTypeExempt_agrees (a r : Bool) (s : State) :
    AgreeNext (execTypeExempt a r s) (execTypeExempt a r s.erase) := by
  have helse (u : State) (hu : u.rx.st ≠ .cs2) : execTypeExempt a r u = hold u := by
    simp [execTypeExempt, cs2Step, hu]
  by_cases hst : s.rx.st = .cs2
  · refine .ite ?_ (fun _ => cs2Step_agrees s) fun _ => hold_agrees s
    rw [State.erase_rx, RxRegs.erase_cs2 hst]
    rfl
  · rw [helse s hst, helse s.erase (by rwa [State.erase_rx, RxRegs.erase_st])]
    exact hold_agrees s

theorem execDisconnectComplete_agrees (s : State) :
    AgreeNext (execDisconnectComplete s) (execDisconnectComplete s.erase) :=
  .enabled (by rw [State.erase_tx, State.erase_rx, TxRegs.erase_st, RxRegs.erase_st]; rfl) fun _ =>
    s.erase_completeDisconnect

/-! ### Every step -/

/-- No instruction reads an erased register. -/
theorem exec_agrees (i : Instr) (s : State) : AgreeNext (exec i s) (exec i s.erase) := by
  cases i with
  | reserved0 h | reservedA h | reservedB h | reservedC h | reservedD h | reservedE h | reservedF h =>
    exact reservedCommand_agrees h _ s
  | connect h => exact execConnect_agrees h s
  | disconnect h => exact execDisconnect_agrees h s
  | send h m => exact execSend_agrees h m s
  | sendTimed h m tMs => exact execSendTimed_agrees h m tMs s
  | subscribe h lid => exact execSubscribe_agrees h lid s
  | unsubscribe h lid => exact execUnsubscribe_agrees h lid s
  | setClock h year month day hour minute dow => exact execSetClock_agrees h year month day hour minute dow s
  | querySize h | size h => exact sizeQuery_agrees h s
  | queryFull h | isFull h => exact fullQuery_agrees h s
  | append h m => exact execAppend_agrees h m s
  | appendTimed h m tMs => exact execAppendTimed_agrees h m tMs s
  | prepend => exact .ite Iff.rfl (fun _ => ackInsertStep_agrees s) fun _ => hold_agrees s
  | take | tTake => exact takeStep_agrees s
  | flag | escape | esc7E | esc7D | escIllegal | frame => exact .next (s.erase_offerSymbols _)
  | ackreq r y => exact execAckreq_agrees r y s
  | typeBareAck => exact .ite Iff.rfl (fun _ => takeStep_agrees s) fun _ => hold_agrees s
  | typeExempt a r => exact execTypeExempt_agrees a r s
  | notify lid a => exact execNotify_agrees lid a s
  | tReady => exact execTReady_agrees s
  | tTimeout => exact execTTimeout_agrees s
  | tCancel => exact execTCancel_agrees s
  | tEmit => exact execTEmit_agrees s
  | tWrerr => exact execTWrerr_agrees s
  | tEnd => exact execTEnd_agrees s
  | rHuntSkip => exact execRHuntSkip_agrees s
  | rHuntFlag => exact execRHuntFlag_agrees s
  | rLen => exact execRLen_agrees s
  | rDataPlain => exact execRDataPlain_agrees s
  | rDataEsc => exact execRDataEsc_agrees s
  | rEscOk => exact execREscOk_agrees s
  | rEscBad => exact execREscBad_agrees s
  | rCs1 => exact execRCs1_agrees s
  | rCs2 => exact cs2Step_agrees s
  | rAckInsert => exact ackInsertStep_agrees s
  | rAckHold => exact hold_agrees s
  | rAckAbort => exact ackAbortStep_agrees s
  | rAckNone => exact execRAckNone_agrees s
  | rGate => exact execRGate_agrees s
  | rDeliverOk => exact execRDeliverOk_agrees s
  | rDeliverFault => exact execRDeliverFault_agrees s
  | rClose => exact execRClose_agrees s
  | disconnectComplete => exact execDisconnectComplete_agrees s
  | insertRelease h op => exact execInsertRelease_agrees h op s

/-- Settles O18: the choice taken up is the same in both states, and what it carries out reads no erased register. -/
theorem unspecifiedNeverRead : Obligations.UnspecifiedNeverRead := by
  intro s
  have hfetch : s.erase.fetch = s.fetch := rfl
  unfold step
  rw [hfetch, ← State.erase_fetched]
  split
  · next split p _ =>
    split
    · exact exec_agrees _ (s.fetched.withSplit split)
    · rfl
  · exact AgreeNext.next (State.erase_erase (s.fetched.tick _)).symm
  · exact AgreeNext.next (s.fetched.erase_offerSymbols _)
  · exact AgreeNext.next (State.erase_erase s.fetched.dropSymbols).symm
  · exact AgreeNext.next (s.fetched.erase_offerAnswers _)
  · exact AgreeNext.next (State.erase_erase s.fetched.dropAnswers).symm

end Sys2Proof.Machine
end

section
/-! Settles O17 (60_exceptions R196, 00_scope R18). In each state the registers name the one step of each loop that may be
enabled; every step of the loop is enabled only where it is the one named. -/

namespace Sys2Proof.Machine

variable {s t : State} {i : Instr}

/-- An instruction that does not hold answers another state. -/
theorem exec_ne_self (hne : exec i s ≠ .next s) : ∃ t, exec i s = .next t ∧ t ≠ s := by
  obtain ⟨t, e⟩ := everyInstructionAnswersNext i s
  exact ⟨t, e, fun hts => hne (hts ▸ e)⟩

/-! ### The Transmitter (43_transmitter R123 to R129) -/

/-- The Transmitter's step that may be enabled. -/
def txCandidate (s : State) : Option Instr :=
  match s.tx.st with
  | .wait => some (if s.cancel then .tCancel else if s.gate then .tReady else .tTimeout)
  | .take => some (if s.cancel then .tCancel else .tTake)
  | .send =>
    if s.tx.frame = [] then some .tEnd
    else if s.streamOpen = true ∧ s.sinkAns.head? = some .accept then some .tEmit
    else some .tWrerr
  | .off => none
  | .stopped => none

/-- A step of the Transmitter that is enabled is the one named. -/
theorem txCandidate_of_moves (hi : i ∈ txSteps) (hne : exec i s ≠ .next s) : txCandidate s = some i := by
  obtain ⟨t, e, hts⟩ := exec_ne_self hne
  simp only [txSteps, List.mem_cons, List.not_mem_nil, or_false] at hi
  rcases hi with rfl | rfl | rfl | rfl | rfl | rfl | rfl
  · rcases (execTCancel_cases e).resolve_left hts with ⟨hst | hst, hcancel, -⟩
    · simp [txCandidate, hst, hcancel]
    · simp [txCandidate, hst, hcancel]
  · obtain ⟨hst, hcancel, hgate, -⟩ := (execTReady_cases e).resolve_left hts
    simp [txCandidate, hst, hcancel, hgate]
  · obtain ⟨hst, hcancel, hgate, -, -⟩ := (execTTimeout_cases e).resolve_left hts
    simp [txCandidate, hst, hcancel, hgate]
  · obtain ⟨m, rest, hst, hcancel, -, -⟩ := (takeStep_cases e).resolve_left hts
    simp [txCandidate, hst, hcancel]
  · rcases (execTWrerr_cases e).resolve_left hts with ⟨hst, hframe, hclosed, -⟩ | ⟨answers, hst, hframe, -, hans, -⟩
    · simp [txCandidate, hst, hframe, hclosed]
    · simp [txCandidate, hst, hframe, hans]
  · obtain ⟨b, rest, answers, hst, hframe, hopen, hans, -⟩ := (execTEmit_cases e).resolve_left hts
    simp [txCandidate, hst, hframe, hopen, hans]
  · obtain ⟨hst, hframe, -⟩ := (execTEnd_cases e).resolve_left hts
    simp [txCandidate, hst, hframe]

/-! ### The Receiver (44_receiver R136 to R153, 45_dispatch R161 to R163) -/

/-- The Receiver's step that may be enabled. -/
def rxCandidate (s : State) : Option Instr :=
  match s.rx.st with
  | .hunt | .len | .data | .cs1 | .cs2 => some ((readInstr s).getD .rClose)
  | .ack => some (if s.rx.ackreq then (if s.hasSpace then .rAckInsert else .rAckAbort) else .rAckNone)
  | .gate => some .rGate
  | .dispatch => s.lisAns.map deliverInstr
  | .off => none
  | .stopped => none

theorem rxCandidate_of_reading (hr : s.rx.st.reading = true) : rxCandidate s = some ((readInstr s).getD .rClose) := by
  unfold rxCandidate
  cases hst : s.rx.st with
  | hunt | len | data | cs1 | cs2 => rfl
  | off | ack | gate | dispatch | stopped => rw [hst] at hr; cases hr

theorem rxCandidate_of_readInstr (h : readInstr s = some i) : rxCandidate s = some i := by
  have hr : s.rx.st.reading = true := by
    cases hst : s.rx.st with
    | hunt | len | data | cs1 | cs2 => rfl
    | off | ack | gate | dispatch | stopped => simp [readInstr, hst] at h
  rw [rxCandidate_of_reading hr, h, Option.getD_some]

/-- Where the symbol offered is no byte, no step reads one. -/
theorem readInstr_none (hb : s.recvByte = none) : readInstr s = none := by
  unfold readInstr
  rw [hb]
  cases s.rx.st <;> rfl

/-- A step of the Receiver that is enabled is the one named. -/
theorem rxCandidate_of_moves (hi : i ∈ rxSteps) (hne : exec i s ≠ .next s) : rxCandidate s = some i := by
  obtain ⟨t, e, hts⟩ := exec_ne_self hne
  simp only [rxSteps, List.mem_cons, List.not_mem_nil, or_false] at hi
  rcases hi with rfl | rfl | rfl | rfl | rfl | rfl | rfl | rfl | rfl | rfl | rfl | rfl | rfl | rfl | rfl | rfl
  · obtain ⟨b, hst, hb, hflag, -⟩ := (execRHuntSkip_cases e).resolve_left hts
    exact rxCandidate_of_readInstr (by simp only [readInstr, hst, hb, if_neg hflag])
  · obtain ⟨hst, hb, -⟩ := (execRHuntFlag_cases e).resolve_left hts
    exact rxCandidate_of_readInstr (by simp [readInstr, hst, hb])
  · obtain ⟨b, hst, hb, -⟩ := (execRLen_cases e).resolve_left hts
    exact rxCandidate_of_readInstr (by simp [readInstr, hst, hb])
  · obtain ⟨b, hst, hesc, hb, hplain, -⟩ := (execRDataPlain_cases e).resolve_left hts
    exact rxCandidate_of_readInstr (by simp only [readInstr, hst, hesc, hb, if_neg hplain, Bool.false_eq_true, if_false])
  · obtain ⟨hst, hesc, hb, -⟩ := (execRDataEsc_cases e).resolve_left hts
    exact rxCandidate_of_readInstr (by simp [readInstr, hst, hesc, hb])
  · obtain ⟨b, hst, hesc, hb, hlegal, -⟩ := (execREscOk_cases e).resolve_left hts
    exact rxCandidate_of_readInstr (by simp [readInstr, hst, hesc, hb, hlegal])
  · obtain ⟨b, hst, hesc, hb, hlegal, -⟩ := (execREscBad_cases e).resolve_left hts
    exact rxCandidate_of_readInstr (by simp [readInstr, hst, hesc, hb, hlegal])
  · obtain ⟨b, hst, hb, -⟩ := (execRCs1_cases e).resolve_left hts
    exact rxCandidate_of_readInstr (by simp [readInstr, hst, hb])
  · obtain ⟨b, hst, hb, -⟩ := (cs2Step_cases e).resolve_left hts
    exact rxCandidate_of_readInstr (by simp [readInstr, hst, hb])
  · obtain ⟨hst, hreq, hspace, -⟩ := (ackInsertStep_cases e).resolve_left hts
    simp [rxCandidate, hst, hreq, hspace]
  · obtain ⟨hst, hreq, hfull, -, -⟩ := (ackAbortStep_cases e).resolve_left hts
    simp [rxCandidate, hst, hreq, hasSpace_of_full (of_decide_eq_true hfull)]
  · obtain ⟨hst, hreq, -⟩ := (execRAckNone_cases e).resolve_left hts
    simp [rxCandidate, hst, hreq]
  · obtain ⟨hst, -⟩ := (execRGate_cases e).resolve_left hts
    simp [rxCandidate, hst]
  · obtain ⟨n, hoffer, hans, -⟩ := (execRDeliverOk_cases e).resolve_left hts
    simp [rxCandidate, (offer_some hoffer).1, hans, deliverInstr]
  · obtain ⟨n, hoffer, hans, -⟩ := (execRDeliverFault_cases e).resolve_left hts
    simp [rxCandidate, (offer_some hoffer).1, hans, deliverInstr]
  · obtain ⟨r, hreading, -, hrecv⟩ := (execRClose_cases e).resolve_left hts
    have hb : s.recvByte = none := by rcases hrecv with ⟨-, hrecv⟩ | ⟨-, hrecv⟩ <;> simp [State.recvByte, hrecv]
    rw [rxCandidate_of_reading hreading, readInstr_none hb, Option.getD_none]

/-- Settles O17: two enabled steps of one loop are both the one that the state names. -/
theorem oneStepPerAgent : Obligations.OneStepPerAgent := by
  rintro s i j (⟨hi, hj⟩ | ⟨hi, hj⟩) hni hnj
  · exact Option.some_inj.mp ((txCandidate_of_moves hi hni).symm.trans (txCandidate_of_moves hj hnj))
  · exact Option.some_inj.mp ((rxCandidate_of_moves hi hni).symm.trans (rxCandidate_of_moves hj hnj))

end Sys2Proof.Machine
end

section
/-! Settles O11 (70_reset_and_hazards R206). At power-on a command at a port that was built is answered at once, and every
other instruction finds its condition false: the loops are off, the stream is closed and no port executes anything. -/

namespace Sys2Proof.Machine

variable {s t : State} {i : Instr} {h : Nat}

/-! ### The issue steps -/

/-- Port `h` has been given one more response. -/
def RespondedAt (h : Nat) (s t : State) : Prop := ∃ r, t.host = s.host.modify h fun p => p.respond r

theorem RespondedAt.ne (hr : RespondedAt h s t) (hh : h < s.host.length) : t ≠ s := by
  rintro rfl
  obtain ⟨r, hhost⟩ := hr
  have hp := congrArg (fun l => l[h]?.map fun p => p.resp.length) hhost
  simp [HostPort.respond, List.getElem?_eq_getElem hh] at hp

theorem sendChecks_disconnected (hc : s.conn = .disconnected) (op : BitVec 4) (m : Message) (k : State → State) :
    s.sendChecks h op m k = s.refuse h op .notConnected := if_pos (by rw [hc]; decide)

theorem issue_responds {k : State → State} (hidle : s.portIdle h = true) (hk : RespondedAt h s (k s)) :
    ∃ t, issue h s k = .next t ∧ RespondedAt h s t := ⟨k s, issue_idle hidle, hk⟩

theorem reservedCommand_responds (hidle : s.portIdle h = true) (op : BitVec 4) :
    ∃ t, reservedCommand h op s = .next t ∧ RespondedAt h s t :=
  issue_responds (k := fun t => t.refuse h op .reservedOp) hidle ⟨_, rfl⟩

theorem sizeQuery_responds (hidle : s.portIdle h = true) : ∃ t, sizeQuery h s = .next t ∧ RespondedAt h s t :=
  issue_responds (k := fun t => t.respond h (valueResponse (.size t.statQsize))) hidle ⟨_, rfl⟩

theorem fullQuery_responds (hidle : s.portIdle h = true) : ∃ t, fullQuery h s = .next t ∧ RespondedAt h s t :=
  issue_responds (k := fun t => t.respond h (valueResponse (.full t.statQfull))) hidle ⟨_, rfl⟩

/-- While the block is disconnected no command is held: each is answered in its issue step (46_host_ops R168 to R182,
45_dispatch R158, R159). -/
theorem exec_issue_responds (hi : issuePort i = some h) (hidle : s.portIdle h = true) (hc : s.conn = .disconnected) :
    ∃ t, exec i s = .next t ∧ RespondedAt h s t := by
  have hn : s.conn ≠ .connected := by rw [hc]; decide
  cases i with
  | reserved0 | reservedA | reservedB | reservedC | reservedD | reservedE | reservedF =>
    cases hi
    exact reservedCommand_responds hidle _
  | querySize | size =>
    cases hi
    exact sizeQuery_responds hidle
  | queryFull | isFull =>
    cases hi
    exact fullQuery_responds hidle
  | unsubscribe =>
    cases hi
    dsimp only [exec, execUnsubscribe]
    exact issue_responds hidle ⟨okResponse, rfl⟩
  | connect =>
    cases hi
    dsimp only [exec, execConnect]
    refine issue_responds hidle ?_
    rw [if_pos hc]
    exact ⟨okResponse, rfl⟩
  | disconnect =>
    cases hi
    dsimp only [exec, execDisconnect]
    refine issue_responds hidle ?_
    rw [hc]
    exact ⟨okResponse, rfl⟩
  | send | sendTimed =>
    cases hi
    dsimp only [exec, execSend, execSendTimed]
    exact issue_responds hidle ⟨_, congrArg State.host (sendChecks_disconnected hc _ _ _)⟩
  | subscribe =>
    cases hi
    dsimp only [exec, execSubscribe]
    refine issue_responds hidle ?_
    rw [if_pos hn]
    exact ⟨_, rfl⟩
  | setClock =>
    cases hi
    dsimp only [exec, execSetClock]
    refine issue_responds hidle ?_
    rw [if_neg hn]
    split
    · exact ⟨_, congrArg State.host (sendChecks_disconnected hc _ _ _)⟩
    · exact ⟨_, rfl⟩
  | append | appendTimed | prepend | take | flag | escape | esc7E | esc7D | escIllegal | frame | ackreq | typeBareAck
  | typeExempt | notify | tReady | tTimeout | tCancel | tTake | tEmit | tWrerr | tEnd | rHuntSkip | rHuntFlag | rLen
  | rDataPlain | rDataEsc | rEscOk | rEscBad | rCs1 | rCs2 | rAckInsert | rAckHold | rAckAbort | rAckNone | rGate
  | rDeliverOk | rDeliverFault | rClose | disconnectComplete | insertRelease => cases hi

/-! ### The other instructions -/

/-- A block that is switched off: neither loop runs, the stream is closed and no port executes a command. -/
structure State.Resting (s : State) : Prop where
  conn : s.conn = .disconnected
  stream : s.streamOpen = false
  tx : s.tx.st = .off
  rx : s.rx.st = .off
  ports : ∀ h, s.hostCmd h = none

theorem State.Resting.txSteps_hold (hs : s.Resting) (hi : i ∈ txSteps) : exec i s = .next s := by
  by_contra hne
  have hnone : txCandidate s = none := by simp only [txCandidate, hs.tx]
  cases hnone.symm.trans (txCandidate_of_moves hi hne)

theorem State.Resting.rxSteps_hold (hs : s.Resting) (hi : i ∈ rxSteps) : exec i s = .next s := by
  by_contra hne
  have hnone : rxCandidate s = none := by simp only [rxCandidate, hs.rx]
  cases hnone.symm.trans (rxCandidate_of_moves hi hne)

/-- The rows of a shared step hold where the loop's own step does. -/
theorem exec_holds_of_resting (hs : s.Resting) (hi : issuePort i = none) : exec i s = .next s := by
  have htake : takeStep s = hold s := hs.txSteps_hold (i := .tTake) (by decide)
  have hinsert : ackInsertStep s = hold s := hs.rxSteps_hold (i := .rAckInsert) (by decide)
  have habort : ackAbortStep s = hold s := hs.rxSteps_hold (i := .rAckAbort) (by decide)
  have hoffer : s.offer = none := by
    refine Option.eq_none_iff_forall_ne_some.mpr fun n hn => ?_
    cases hs.rx.symm.trans (offer_some hn).1
  have hcs2 : cs2Step s = hold s := hs.rxSteps_hold (i := .rCs2) (by decide)
  cases i with
  | tCancel | tReady | tTimeout | tTake | tWrerr | tEmit | tEnd => exact hs.txSteps_hold (by decide)
  | rHuntSkip | rHuntFlag | rLen | rDataPlain | rDataEsc | rEscOk | rEscBad | rCs1 | rCs2 | rAckInsert | rAckAbort
  | rAckNone | rGate | rDeliverOk | rDeliverFault | rClose => exact hs.rxSteps_hold (by decide)
  | take => exact htake
  | rAckHold => rfl
  | prepend => simp only [exec, execPrepend, hinsert, ite_self, hold]
  | ackreq => simp only [exec, execAckreq, hinsert, habort, ite_self, hold]
  | typeBareAck => simp only [exec, execTypeBareAck, htake, ite_self, hold]
  | typeExempt => simp only [exec, execTypeExempt, hcs2, ite_self, hold]
  | flag | escape | esc7E | esc7D | escIllegal | frame => exact congrArg _ (s.supply_closed _ hs.stream)
  | notify => simp only [exec, execNotify, hoffer, hold]
  | append h => simp only [exec, execAppend, hs.ports, hold]
  | appendTimed h =>
    refine if_neg fun ⟨hcmd, _⟩ => ?_
    cases (hs.ports h).symm.trans hcmd
  | insertRelease h => simp only [exec, execInsertRelease, hs.ports, hold]
  | disconnectComplete => 
    refine if_neg fun ⟨hconn, _⟩ => ?_
    cases hs.conn.symm.trans hconn
  | reserved0 | connect | disconnect | send | sendTimed | subscribe | unsubscribe | setClock | querySize | queryFull
  | reservedA | reservedB | reservedC | reservedD | reservedE | reservedF | size | isFull => cases hi

theorem State.Resting.portIdle (hs : s.Resting) (hh : h < s.host.length) : s.portIdle h = true :=
  have hp : s.host[h]? = some s.host[h] := List.getElem?_eq_getElem hh
  portIdle_of hp ((hostCmd_of hp).symm.trans (hs.ports h))

/-- Only the issue steps of the ports built are left. -/
theorem State.Resting.issues_or_holds (hs : s.Resting) (i : Instr) :
    (∃ h, issuePort i = some h ∧ h < s.host.length) ∨ exec i s = .next s := by
  cases hi : issuePort i with
  | none => exact .inr (exec_holds_of_resting hs hi)
  | some h =>
    by_cases hh : h < s.host.length
    · exact .inl ⟨h, rfl, hh⟩
    · refine .inr (exec_busy hi (portIdle_eq_false fun p hp => ?_))
      exact absurd (List.getElem?_eq_some_iff.mp hp).1 hh

theorem State.Resting.withSplit (hs : s.Resting) (split : Bool) : (s.withSplit split).Resting :=
  ⟨hs.conn, hs.stream, hs.tx, hs.rx, hs.ports⟩

/-! ### The power-on state -/

section
variable (c : Params) (now : Nat)

theorem powerOn_ports : (State.powerOn c now).host.length = c.hosts := List.length_replicate

theorem powerOn_resting : (State.powerOn c now).Resting where
  conn := rfl
  stream := rfl
  tx := rfl
  rx := rfl
  ports h := by
    unfold State.hostCmd
    split
    · next p hp => rw [List.eq_of_mem_replicate (List.mem_of_getElem? hp)]; rfl
    · rfl

/-- The choices of the environment that are no instruction: the clock moves, and the wire has nothing to take back. -/
theorem powerOn_step {d : Choice} (e : step ((State.powerOn c now).choosing d) = .next t) :
    t = State.powerOn c now ∨ (∃ ms, d = .clock ms) ∨
      ∃ split p i, d = .act split p ∧ decode p = .ok i ∧
        ((∃ h, issuePort i = some h ∧ h < c.hosts) ∨ t = { State.powerOn c now with split := split }) := by
  have hs := powerOn_resting c now
  rcases step_choosing_cases e with
    ⟨split, p, i, hd, hp, e⟩ | ⟨ms, hd, -⟩ | ⟨xs, -, rfl⟩ | ⟨-, rfl⟩ | ⟨answers, -, rfl⟩ | ⟨-, rfl⟩
  · refine .inr (.inr ⟨split, p, i, hd, hp, ?_⟩)
    rcases (hs.withSplit split).issues_or_holds i with ⟨h, hi, hh⟩ | hhold
    · exact .inl ⟨h, hi, hh.trans_eq (powerOn_ports c now)⟩
    · exact .inr (Host.Outcome.next.inj (e.symm.trans hhold))
  · exact .inr (.inl ⟨ms, hd⟩)
  · exact .inl (State.offerSymbols_closed _ xs hs.stream)
  · exact .inl rfl
  · exact .inl (State.offerAnswers_closed _ answers hs.stream)
  · exact .inl rfl
end

/-- Settles O11: the power-on state rests, so its ports' issue steps and the clock are all that moves. -/
theorem powerOnState : Obligations.PowerOnState := by
  intro c now s
  have hs : s.Resting := powerOn_resting c now
  have hports : s.host.length = c.hosts := powerOn_ports c now
  refine ⟨rfl, rfl, rfl, rfl, rfl, rfl, rfl, rfl, rfl, rfl, rfl, rfl, hports, ?idle, ?issues, fun ms => rfl, ?holds,
    fun d t e => powerOn_step c now e⟩
  case idle => exact fun p hp => congrArg HostPort.cmd (List.eq_of_mem_replicate hp)
  case issues =>
    intro i h hi hh
    rw [← hports] at hh
    obtain ⟨t, e, hr⟩ := exec_issue_responds hi (hs.portIdle hh) hs.conn
    exact ⟨t, e, hr.ne hh⟩
  case holds => exact hports ▸ hs.issues_or_holds

end Sys2Proof.Machine
end
